-- ==== Sys2Proof/Word.lean ====
section
/-! DEFINITION. The word types of the block (00_scope.md R4, R5) and the two enumerations a command selects from
(30_encoding.md R73, R74). -/

namespace Sys2Proof

/-- A register or a command word: 32 bits (R4 `REGW`, R70). -/
abbrev Word := BitVec 32

/-- A buffer element: one unsigned 8-bit sample (R4). -/
abbrev Byte := BitVec 8

/-- A 16-bit quantity: an RGB565 sample or a checksum word (R53). -/
abbrev Half := BitVec 16

/-- PixelFormatTag, in the order of R73. The reserved code 7 is no tag. -/
inductive PixelFormatTag where
  | yuvx
  | vuyx
  | uyvy422
  | vyuy422
  | rgb888
  | bgr888
  | rgb565
  deriving DecidableEq, Repr

/-- The two buffer memories (R50, R51); `BSEL` selects one of them (R74). -/
inductive Buffer where
  | ibuf
  | obuf
  deriving DecidableEq, Repr

/-- A 16-bit quantity from two consecutive bytes, the low byte first (R53, R124). -/
def halfOfBytes (lo hi : Byte) : Half := lo.setWidth 16 ||| (hi.setWidth 16 <<< 8)

end Sys2Proof
end

