-- ==== Sys2Proof/Config.lean ====
section
/-! DEFINITION. What an implementation fixes (00_scope.md R4, 93_implementation_defined.md U14) and the free values
(93_implementation_defined.md U3, U4, U5, U7). -/

namespace Sys2Proof

/-- The open parameters of one block instance (R4: "model argument"). `Host.Core.step` takes a state and nothing else, so
State carries this record; no step changes it (log 1, log 2). -/
structure Params where
  /-- `IBUF_CAP`, the capacity of IBUF in bytes (D5). -/
  ibufCap : Nat
  /-- `OBUF_CAP`, the capacity of OBUF in bytes (D5). -/
  obufCap : Nat
  /-- `STRIDE_YUV422`, the sample stride of the two packed 4:2:2 tags (R92, D12, G1). -/
  strideYuv422 : Nat
  deriving DecidableEq, Repr

/-- The constraints R4 puts on the capacities. -/
def Params.ok (p : Params) : Bool :=
  decide (1 ≤ p.ibufCap) && decide (p.ibufCap ≤ p.obufCap) && decide (3 * (p.ibufCap / 2) ≤ p.obufCap)
    && decide (p.obufCap ≤ 2 ^ 32 - 1)

/-- The parameters of the machine after `State.reset`. DESIGN CHOICE (unsafe, log 1): the largest pair of capacities R4
admits. PRESUMED (unsafe, log 2): the spec's default `STRIDE_YUV422 = 2` (G1). -/
def Params.default : Params := ⟨2863311531, 4294967295, 2⟩

namespace Config

/-- A free value: the 32-bit value the `n`-th draw gives where the spec says a register read returns an unspecified
value (U3, U7; log 7). -/
opaque freeWord : Nat → Word

/-- A free value: the byte the `n`-th draw gives for the buffer byte at an offset, where the spec says the byte is
unspecified (U4, U5, U7; log 5, log 6, log 7). -/
opaque freeByte : Nat → Nat → Byte

end Config

end Sys2Proof
end

