-- ==== Sys2Proof/Syntax.lean ====
section
/-! DEFINITION. The five commands (00_scope.md R2), one constructor per row of spec/opcode_table.json
(30_encoding.md R72). A model must not add any command beyond R2. -/

namespace Sys2Proof

/-- One command. Format T commands carry the declared format tag `FMT`, the format K command carries `BSEL`
(30_encoding.md R71). The operands are enumerations, so a term of this type always spells a legal word. -/
inductive Instr where
  /-- `NONE <fmt>` (R95). -/
  | none (fmt : PixelFormatTag)
  /-- `SWAP_CH0_CH2 <fmt>` (R96). -/
  | swapCh0Ch2 (fmt : PixelFormatTag)
  /-- `RGB565_TO_RGB888 <fmt>` (R98). -/
  | rgb565ToRgb888 (fmt : PixelFormatTag)
  /-- `RGB565_TO_BGR888 <fmt>` (R99). -/
  | rgb565ToBgr888 (fmt : PixelFormatTag)
  /-- `CHECKSUM <buf>` (R120). -/
  | checksum (bsel : Buffer)
  deriving DecidableEq, Repr

end Sys2Proof
end

