-- ==== Sys2Proof/WellFormed.lean ====
section
/-! DEFINITION. Which command words are legal (30_encoding.md R76), one check per condition of the rule.

A term of `Instr` cannot be ill-formed (its operands are enumerations), so well-formedness is a question about command
words. The checks read the word as a number and not through the decoder's bit fields (R78), so that the agreement of the
two is a statement with content. -/

namespace Sys2Proof

/-- R76 condition 1: word[31:8] = 0 and word[3] = 0. -/
def reservedBitsZero (w : Word) : Bool :=
  decide (w.toNat / 2 ^ 8 = 0) && decide (w.toNat / 2 ^ 3 % 2 = 0)

/-- R76 condition 2: `OPC ≤ 4`. -/
def opcDefined (w : Word) : Bool :=
  decide (w.toNat % 2 ^ 3 ≤ 4)

/-- R76 condition 3: in format T (`OPC ≤ 3`), word[7] = 0 and `FMT ≤ 6`. -/
def formatTFieldsOk (w : Word) : Bool :=
  !decide (w.toNat % 2 ^ 3 ≤ 3) || (decide (w.toNat / 2 ^ 7 % 2 = 0) && decide (w.toNat / 2 ^ 4 % 2 ^ 3 ≤ 6))

/-- R76 condition 4: in format K (`OPC = 4`), word[6:4] = 0. -/
def formatKFieldsOk (w : Word) : Bool :=
  !decide (w.toNat % 2 ^ 3 = 4) || decide (w.toNat / 2 ^ 4 % 2 ^ 3 = 0)

/-- A command word is legal exactly when the four conditions of R76 hold. -/
def legalWord (w : Word) : Bool :=
  reservedBitsZero w && opcDefined w && formatTFieldsOk w && formatKFieldsOk w

end Sys2Proof
end

