-- ==== Sys2Proof/Decode.lean ====
section
/-! DEFINITION. Decoding and encoding of command words (30_encoding.md R71 to R74, R78). -/

namespace Sys2Proof

/-- Field `OPC` = word[2:0] (R71). -/
def opcField (w : Word) : BitVec 3 := w.extractLsb' 0 3

/-- Bit 3, which is zero in both formats (R71). -/
def bit3Field (w : Word) : BitVec 1 := w.extractLsb' 3 1

/-- Field `FMT` = word[6:4] (R71). -/
def fmtField (w : Word) : BitVec 3 := w.extractLsb' 4 3

/-- Field `BSEL` = word[7] (R71). -/
def bselField (w : Word) : BitVec 1 := w.extractLsb' 7 1

/-- word[31:8], which is zero in both formats (R71). -/
def upperField (w : Word) : BitVec 24 := w.extractLsb' 8 24

/-- The code of a tag (R73), used in `FMT`, `OFMT` and `STATUS.ETAG`. -/
def PixelFormatTag.code : PixelFormatTag → BitVec 3
  | .yuvx => 0
  | .vuyx => 1
  | .uyvy422 => 2
  | .vyuy422 => 3
  | .rgb888 => 4
  | .bgr888 => 5
  | .rgb565 => 6

/-- The tag a code stands for (R73); code 7 is reserved. -/
def tagOfCode (c : BitVec 3) : Option PixelFormatTag :=
  match c.toNat with
  | 0 => some .yuvx
  | 1 => some .vuyx
  | 2 => some .uyvy422
  | 3 => some .vyuy422
  | 4 => some .rgb888
  | 5 => some .bgr888
  | 6 => some .rgb565
  | _ => none

/-- The value of `BSEL` that selects a buffer (R74). -/
def Buffer.code : Buffer → BitVec 1
  | .ibuf => 0
  | .obuf => 1

/-- The buffer a value of `BSEL` selects (R74). -/
def bufferOfCode (c : BitVec 1) : Buffer :=
  if c = 0 then .ibuf else .obuf

/-- Why a command word spells no command (R76, R163). -/
inductive IllegalReason where
  /-- word[31:8] or word[3] is not zero. -/
  | reservedBit
  /-- `OPC` is 5, 6 or 7. -/
  | reservedOpc
  /-- bit 7 is set in format T. -/
  | bselInFormatT
  /-- `FMT = 7` in format T. -/
  | reservedFmt
  /-- `FMT ≠ 0` in format K. -/
  | fmtInFormatK
  deriving DecidableEq, Repr

/-- What the decoder answers (R77): a command, or `Illegal` with the reason. -/
inductive Decoded where
  | command (i : Instr)
  | illegal (why : IllegalReason)
  deriving DecidableEq, Repr

/-- The fields of a format T word whose `OPC` is that of `mk` (R78). -/
def decodeFormatT (w : Word) (mk : PixelFormatTag → Instr) : Decoded :=
  if bselField w ≠ 0 then .illegal .bselInFormatT
  else match tagOfCode (fmtField w) with
    | some t => .command (mk t)
    | none => .illegal .reservedFmt

/-- The fields of a format K word (R78). -/
def decodeFormatK (w : Word) : Decoded :=
  if fmtField w ≠ 0 then .illegal .fmtInFormatK
  else .command (.checksum (bufferOfCode (bselField w)))

/-- The decoding algorithm of R78, total on every 32-bit value (R77). -/
def decode (w : Word) : Decoded :=
  if upperField w ≠ 0 ∨ bit3Field w ≠ 0 then .illegal .reservedBit
  else match (opcField w).toNat with
    | 0 => decodeFormatT w .none
    | 1 => decodeFormatT w .swapCh0Ch2
    | 2 => decodeFormatT w .rgb565ToRgb888
    | 3 => decodeFormatT w .rgb565ToBgr888
    | 4 => decodeFormatK w
    | _ => .illegal .reservedOpc

/-- A format T word: `000000000000000000000000 0fff0ooo` (R71). -/
def formatTWord (opc : BitVec 3) (t : PixelFormatTag) : Word :=
  0#24 ++ 0#1 ++ t.code ++ 0#1 ++ opc

/-- A format K word: `000000000000000000000000 b0000100` (R71). -/
def formatKWord (b : Buffer) : Word :=
  0#24 ++ b.code ++ 0#3 ++ 0#1 ++ 4#3

/-- The command word of a command (R71, R72). -/
def encode : Instr → Word
  | .none t => formatTWord 0 t
  | .swapCh0Ch2 t => formatTWord 1 t
  | .rgb565ToRgb888 t => formatTWord 2 t
  | .rgb565ToBgr888 t => formatTWord 3 t
  | .checksum b => formatKWord b

/-- The command word whose low `nbits` bits are `w`, every bit above them 0. A command is one 32-bit value with bit 0 its
least significant bit (R5, R70); registers have no observable byte order (20_memory.md R54). -/
def tableWord (nbits w : Nat) : Word := BitVec.ofNat 32 (w % 2 ^ nbits)

/-- The command the decoder reads from a word numbered as spec/opcode_table.json numbers it. -/
def decodeTableWord (nbits w : Nat) : Option Instr :=
  match decode (tableWord nbits w) with
  | .command i => some i
  | .illegal _ => none

end Sys2Proof
end

