-- ==== Sys2Proof/Machine/State.lean ====
section
/-! DEFINITION. The state of one block instance (10_state.md R20), plain data, and its reset value (R37, R180). -/

namespace Sys2Proof.Machine

/-- A buffer memory: the bytes that hold a value, at strictly rising offsets. An offset that is not listed holds "no
value" (R34, U4, U5; log 5). -/
abbrev Memory := List Host.Cell

/-- The hidden ChecksumState (R32). -/
structure ChecksumState where
  /-- `X`, 16 bits. -/
  x : Half
  /-- `Y`, held in 32 bits (C3). -/
  y : Word
  /-- `C`, 32 bits. -/
  c : Word
  deriving DecidableEq, Repr

/-- The host-visible registers (R21). -/
inductive Reg where
  | cmd
  | status
  | width
  | height
  | channels
  | ibufLen
  | cklen
  | obufLen
  | ofmt
  | result
  deriving DecidableEq, Repr

/-- What the host can do to the block (R149), one access at a time (R61). -/
inductive HostAccess where
  /-- `RD reg`: a 32-bit read at a byte offset of the register space (R141). -/
  | rd (off : Nat)
  /-- `WR reg, v`: a 32-bit write at a byte offset of the register space (R142, R143). -/
  | wr (off : Nat) (v : Word)
  /-- Host byte read of `IBUF[i]` (R145). -/
  | rdIbuf (i : Nat)
  /-- Host byte write `IBUF[i] <- b` (R145). -/
  | wrIbuf (i : Nat) (b : Byte)
  /-- Host byte read of `OBUF[i]` (R145). -/
  | rdObuf (i : Nat)
  /-- Host byte write of `OBUF[i]`, which the spec does not define (U9). -/
  | wrObuf (i : Nat) (b : Byte)
  /-- An access of another width than R56 gives the space, which the spec does not define (U8). -/
  | otherWidth
  /-- `repeat RD STATUS until BUSY = 0` (R80, R146; log 11). -/
  | poll
  /-- The reset input is asserted (R180, R181; log 14). -/
  | reset
  deriving DecidableEq, Repr

/-- The two agents (R140). -/
inductive Agent where
  | host
  | block
  deriving DecidableEq, Repr

/-- The complete state of one block instance. -/
structure State where
  /-- `CMD`, offset 0x00 (R22). -/
  cmd : Word
  /-- `STATUS`, offset 0x04 (R23). -/
  status : Word
  /-- `WIDTH`, offset 0x08 (R24). -/
  width : Word
  /-- `HEIGHT`, offset 0x0C (R24). -/
  height : Word
  /-- `CHANNELS`, offset 0x10 (R24). -/
  channels : Word
  /-- `IBUF_LEN`, offset 0x14 (R25). -/
  ibufLen : Word
  /-- `CKLEN`, offset 0x18 (R26). -/
  cklen : Word
  /-- `OBUF_LEN`, offset 0x1C (R27). -/
  obufLen : Word
  /-- `OFMT`, offset 0x20 (R28). -/
  ofmt : Word
  /-- `RESULT`, offset 0x24 (R29). -/
  result : Word
  /-- The input buffer memory (R30). -/
  ibuf : Memory
  /-- The output buffer memory (R31). -/
  obuf : Memory
  /-- The hidden `X`, `Y`, `C` (R32). -/
  cks : ChecksumState
  /-- The hidden latched command word (R33). -/
  lcmd : Word
  /-- The parameters of the instance (R4; not changed by any step; log 1, log 2). -/
  params : Params
  /-- MODEL's own: a T command has succeeded since reset, so `OFMT` is defined (R28, U3; log 3). -/
  ofmtDefined : Bool
  /-- MODEL's own: a `CHECKSUM` has succeeded since reset, so `RESULT` is defined (R29, U3; log 3). -/
  resultDefined : Bool
  /-- MODEL's own: how many draws of free values have been made (log 7). -/
  draws : Nat
  /-- MODEL's own: the host accesses still to be performed, in issue order (R61, R146; log 8). -/
  host : List HostAccess
  /-- MODEL's own: which agent moves next while a command is in flight (R144, U11; log 9). -/
  turns : List Agent
  /-- MODEL's own: what the last host read returned (R141, R145; log 10). -/
  rdata : Word
  deriving DecidableEq, Repr

/-- Why the machine could stop with a fault. The spec has none: "every failure is a rejected input, not a crash"
(60_exceptions.md R160), so there is no constructor (log 17). -/
inductive Fault where
  deriving DecidableEq, Repr

/-- Why a step is refused. -/
inductive Refusal where
  /-- Raised by `exec` for a command that has no meaning yet. Safe: the machine stops. -/
  | notModelled (mnemonic : String)
  /-- Raised by a host write of a register or an IBUF byte while BUSY = 1, which is undefined (R183, U6). Safe. -/
  | hostWriteWhileBusy
  /-- Raised by a register access at an offset that is no register, which is undefined (R148, U8). Safe. -/
  | undefinedRegisterOffset
  /-- Raised by an access of another width than R56 gives the space, which is undefined (R148, U8). Safe. -/
  | undefinedAccessWidth
  /-- Raised by a buffer access at or beyond the capacity, which is undefined (R145, R148, U8). Safe. -/
  | offsetBeyondCapacity
  /-- Raised by a host write to OBUF, which is undefined (R145, U9). Safe. -/
  | hostWriteToObuf
  deriving DecidableEq, Repr

/-- The state after reset (R37, R180) of an instance with parameters `p`. `OFMT`, `RESULT`, `X`, `Y`, `C` and `LCMD` are
unspecified there; the zeros stored are DESIGN CHOICE (log 3, log 4), and no step gives a value that depends on them. -/
def State.resetOf (p : Params) : State where
  cmd := 0
  status := 0
  width := 0
  height := 0
  channels := 0
  ibufLen := 0
  cklen := 0
  obufLen := 0
  ofmt := 0
  result := 0
  ibuf := []
  obuf := []
  cks := ⟨0, 0, 0⟩
  lcmd := 0
  params := p
  ofmtDefined := false
  resultDefined := false
  draws := 0
  host := []
  turns := []
  rdata := 0

/-- The machine right after reset. -/
def State.reset : State := State.resetOf Params.default

end Sys2Proof.Machine
end

