-- ==== Sys2Proof/Machine/Flags.lean ====
section
/-! DEFINITION. The fields of `STATUS` (10_state.md R23), the only flag register, and every value the block writes to
it: at a launch (42_host_interface.md R143), at a successful end (R144), at a failure (60_exceptions.md R165). -/

namespace Sys2Proof.Machine

/-- The errors a command can report (R160). -/
inductive ErrorKind where
  | invalidGeometry
  | unsupportedFormat
  | illegalCommand
  deriving DecidableEq, Repr

/-- The code of an error in `STATUS.ECODE` (R160). -/
def ErrorKind.code : ErrorKind → BitVec 2
  | .invalidGeometry => 1
  | .unsupportedFormat => 2
  | .illegalCommand => 3

/-- `STATUS` from its fields, every reserved bit 0 (R23). -/
def statusWord (busy done err : Bool) (ecode : BitVec 2) (etag : BitVec 3) : Word :=
  0#21 ++ etag ++ 0#2 ++ ecode ++ 0#1 ++ BitVec.ofBool err ++ BitVec.ofBool done ++ BitVec.ofBool busy

/-- `STATUS` of a command in flight (R143). -/
def statusBusy : Word := statusWord true false false 0 0

/-- `STATUS` after a successful command (R144). -/
def statusDone : Word := statusWord false true false 0 0

/-- `STATUS` after a failed command, with the error's code and the offending tag or 0 (R144, R165). -/
def statusError (e : ErrorKind) (etag : BitVec 3) : Word := statusWord false false true e.code etag

/-- `STATUS.BUSY`. -/
def State.busy (s : State) : Bool := s.status.getLsbD 0

/-- `STATUS.DONE`. -/
def State.done (s : State) : Bool := s.status.getLsbD 1

/-- `STATUS.ERR`. -/
def State.err (s : State) : Bool := s.status.getLsbD 2

/-- `STATUS.ECODE`. -/
def State.ecode (s : State) : BitVec 2 := s.status.extractLsb' 4 2

/-- `STATUS.ETAG`. -/
def State.etag (s : State) : BitVec 3 := s.status.extractLsb' 8 3

end Sys2Proof.Machine
end

