-- ==== Sys2Proof/Machine/Ops.lean ====
section
/-! DEFINITION. The named operations over buffer memories and registers, and the two ways a command ends
(20_memory.md, 42_host_interface.md R143, R144, 60_exceptions.md R165). -/

namespace Sys2Proof.Machine

/-- The byte a buffer memory holds at an offset; `none` is "no value" (R34). -/
def Memory.read : Memory → Nat → Option Byte
  | [], _ => none
  | (a, b) :: m, i => if i = a then some b else Memory.read m i

/-- The buffer memory after the byte `v` is written at offset `i`, in the one canonical form. -/
def Memory.write : Memory → Nat → Byte → Memory
  | [], i, v => [(i, v)]
  | (a, b) :: m, i, v =>
    if i < a then (i, v) :: (a, b) :: m
    else if i = a then (a, v) :: m
    else (a, b) :: Memory.write m i v

/-- The buffer memory that holds the given bytes from offset `i` on and nothing else. -/
def Memory.ofBytesAt : Nat → List Byte → Memory
  | _, [] => []
  | i, b :: bs => (i, b) :: Memory.ofBytesAt (i + 1) bs

/-- The buffer memory that holds the given bytes from offset 0 on and nothing else. -/
def Memory.ofBytes (bs : List Byte) : Memory := Memory.ofBytesAt 0 bs

/-- The canonical form: strictly rising offsets. An unlisted offset reads as no value, so no entry equals that. -/
def Memory.wf : Memory → Bool
  | [] => true
  | [_] => true
  | p :: q :: m => decide (p.1 < q.1) && Memory.wf (q :: m)

/-- The memory of a buffer space (R50). -/
def State.bufMem (s : State) : Buffer → Memory
  | .ibuf => s.ibuf
  | .obuf => s.obuf

/-- The length register of a buffer (R74). -/
def State.bufLen (s : State) : Buffer → Word
  | .ibuf => s.ibufLen
  | .obuf => s.obufLen

/-- The capacity of a buffer (R4). -/
def State.bufCap (s : State) : Buffer → Nat
  | .ibuf => s.params.ibufCap
  | .obuf => s.params.obufCap

/-- The byte the command in flight reads at an offset of a buffer. A byte that holds no value is a free value, the same at
every read of it by this command (U4; log 5). -/
def State.bufByte (s : State) (b : Buffer) (i : Nat) : Byte :=
  ((s.bufMem b).read i).getD (Config.freeByte s.draws i)

/-- The `n` bytes at offsets `i .. i+n-1` of a buffer, as the command in flight reads them. -/
def State.bytesAt (s : State) (b : Buffer) : Nat → Nat → List Byte
  | _, 0 => []
  | i, n + 1 => s.bufByte b i :: State.bytesAt s b (i + 1) n

/-- The input buffer of a T command: `IBUF[0 .. IBUF_LEN-1]` (R25). -/
def State.inputBytes (s : State) : List Byte := s.bytesAt .ibuf 0 s.ibufLen.toNat

/-- Launch of the command word `v`, which also leaves the error state of an earlier command (R143, R166). -/
def State.launch (v : Word) (s : State) : State :=
  { s with cmd := v, lcmd := v, status := statusBusy }

/-- Failure of a command, this block's exception entry: `STATUS` and nothing else (R165). -/
def State.fail (e : ErrorKind) (etag : BitVec 3) (s : State) : State :=
  { s with status := statusError e etag }

/-- Successful end of a command (R144). The draw the command may have made of unspecified input bytes is used up
(MODEL's own `draws`, log 7). -/
def State.complete (s : State) : State :=
  { s with status := statusDone, draws := s.draws + 1 }

/-- The results of a T command: OBUF holds the output bytes, `OBUF_LEN` their number, `OFMT` the output tag (R90 step 4).
Bytes of OBUF beyond the output hold no value afterwards (R105; log 6). -/
def State.storeOutput (out : List Byte) (tag : PixelFormatTag) (s : State) : State :=
  { s with
    obuf := Memory.ofBytes out
    obufLen := BitVec.ofNat 32 out.length
    ofmt := tag.code.setWidth 32
    ofmtDefined := true }

/-- The result of `CHECKSUM`: `RESULT`, and the accumulators left at their final values (R120, R126). -/
def State.storeResult (v : Word) (c : ChecksumState) (s : State) : State :=
  { s with result := v, resultDefined := true, cks := c }

/-- The byte offset of a register (R21). -/
def Reg.offset : Reg → Nat
  | .cmd => 0x00
  | .status => 0x04
  | .width => 0x08
  | .height => 0x0C
  | .channels => 0x10
  | .ibufLen => 0x14
  | .cklen => 0x18
  | .obufLen => 0x1C
  | .ofmt => 0x20
  | .result => 0x24

/-- The register at a byte offset of the register space; any other offset is no register (R21, R148). -/
def regAt (off : Nat) : Option Reg :=
  match off with
  | 0x00 => some .cmd
  | 0x04 => some .status
  | 0x08 => some .width
  | 0x0C => some .height
  | 0x10 => some .channels
  | 0x14 => some .ibufLen
  | 0x18 => some .cklen
  | 0x1C => some .obufLen
  | 0x20 => some .ofmt
  | 0x24 => some .result
  | _ => none

/-- The value a register holds. -/
def State.reg (s : State) : Reg → Word
  | .cmd => s.cmd
  | .status => s.status
  | .width => s.width
  | .height => s.height
  | .channels => s.channels
  | .ibufLen => s.ibufLen
  | .cklen => s.cklen
  | .obufLen => s.obufLen
  | .ofmt => s.ofmt
  | .result => s.result

/-- Whether a host read of a register returns the value it holds; otherwise it returns an unspecified value: the three
result registers while BUSY = 1 (R184, U7), `OFMT` and `RESULT` before they are defined (R28, R29, U3). -/
def State.regReadable (s : State) : Reg → Bool
  | .obufLen => !s.busy
  | .ofmt => !s.busy && s.ofmtDefined
  | .result => !s.busy && s.resultDefined
  | _ => true

/-- A host write of a register while BUSY = 0 (R142, R143): `CMD` launches, the operand registers take the value, the
read-only registers do not change. -/
def State.writeReg (v : Word) (s : State) : Reg → State
  | .cmd => s.launch v
  | .width => { s with width := v }
  | .height => { s with height := v }
  | .channels => { s with channels := v }
  | .ibufLen => { s with ibufLen := v }
  | .cklen => { s with cklen := v }
  | .status => s
  | .obufLen => s
  | .ofmt => s
  | .result => s

/-- A host read returned `v` (MODEL's own `rdata`, log 10). -/
def State.returnValue (v : Word) (s : State) : State :=
  { s with rdata := v }

/-- A host read returned an unspecified 32-bit value (U3, U7; log 7, log 19). -/
def State.returnFreeWord (s : State) : State :=
  { s with rdata := Config.freeWord s.draws, draws := s.draws + 1 }

/-- A host read of a buffer byte returned an unspecified byte (U5, U7, R145; log 5, log 6, log 7). -/
def State.returnFreeByte (i : Nat) (s : State) : State :=
  { s with rdata := (Config.freeByte s.draws i).setWidth 32, draws := s.draws + 1 }

/-- The reset input is asserted: every element of the spec's state takes its reset value and a command in flight is
abandoned (R180, R181). The parameters and the MODEL's own `host`, `turns`, `draws`, `rdata` are no state of the block
and stay (log 14). -/
def State.assertReset (s : State) : State :=
  { State.resetOf s.params with host := s.host, turns := s.turns, draws := s.draws, rdata := s.rdata }

end Sys2Proof.Machine
end

