-- ==== Sys2Proof/Machine/Operands.lean ====
section
/-! DEFINITION. What the commands read and check before they run: the tag table (40_transcode.md R91), the strides (R92),
the geometry check (R93, R94), the length check of the checksum (41_checksum.md R121), and the field extraction of an
RGB565 sample (R97). -/

namespace Sys2Proof.Machine

/-- The four transcoder operations (R72), as the tables of R91 and R93 are indexed. -/
inductive TOp where
  | none
  | swapCh0Ch2
  | rgb565ToRgb888
  | rgb565ToBgr888
  deriving DecidableEq, Repr

/-- `OUTTAG(opc, fmt)`: the output tag, undefined where the operation does not accept the declared tag (R91). -/
def outTag : TOp → PixelFormatTag → Option PixelFormatTag
  | .none, fmt => some fmt
  | .swapCh0Ch2, .yuvx => some .vuyx
  | .swapCh0Ch2, .uyvy422 => some .vyuy422
  | .swapCh0Ch2, _ => Option.none
  | .rgb565ToRgb888, .rgb565 => some .rgb888
  | .rgb565ToRgb888, _ => Option.none
  | .rgb565ToBgr888, .rgb565 => some .bgr888
  | .rgb565ToBgr888, _ => Option.none

/-- `STRIDE(tag)`: bytes per pixel position (R92); that of the 4:2:2 tags is a parameter (G1, log 2). -/
def stride (p : Params) : PixelFormatTag → Nat
  | .rgb565 => 2
  | .rgb888 => 3
  | .bgr888 => 3
  | .yuvx => 4
  | .vuyx => 4
  | .uyvy422 => p.strideYuv422
  | .vyuy422 => p.strideYuv422

/-- Check 1 of R93: "all positive integers". -/
def geometryPositive (s : State) : Bool :=
  decide (1 ≤ s.width.toNat) && decide (1 ≤ s.height.toNat) && decide (1 ≤ s.channels.toNat)

/-- Check 2 of R93. -/
def channelsMatch (fmt : PixelFormatTag) (s : State) : Bool :=
  decide (s.channels.toNat = stride s.params fmt)

/-- Check 3 of R93. -/
def inputHeld (s : State) : Bool :=
  decide (s.ibufLen.toNat ≤ s.params.ibufCap)

/-- Check 4 of R93, on the exact product (R94). -/
def inputLengthOk (s : State) : Bool :=
  decide (s.ibufLen.toNat = s.height.toNat * s.width.toNat * s.channels.toNat)

/-- Check 5 of R93, only for the swap. -/
def rowAligned (op : TOp) (s : State) : Bool :=
  match op with
  | .swapCh0Ch2 => decide (s.width.toNat * s.channels.toNat % 4 = 0)
  | .none => true
  | .rgb565ToRgb888 => true
  | .rgb565ToBgr888 => true

/-- `GeometryOK(opc, fmt)` (R93). -/
def geometryOk (op : TOp) (fmt : PixelFormatTag) (s : State) : Bool :=
  geometryPositive s && channelsMatch fmt s && inputHeld s && inputLengthOk s && rowAligned op s

/-- The length check of `CHECKSUM` (R121): the selected buffer is wholly held, and no more bytes are submitted than it
has. -/
def checksumLengthOk (b : Buffer) (s : State) : Bool :=
  decide ((s.bufLen b).toNat ≤ s.bufCap b) && decide (s.cklen.toNat ≤ (s.bufLen b).toNat)

/-- `R8` of a sample: bits 15:11 shifted left by 3, zero filled (R97). -/
def red8 (v : Half) : Byte := (((v >>> 11) &&& 0x1F).setWidth 8) <<< 3

/-- `G8` of a sample: bits 10:5 shifted left by 2, zero filled (R97). -/
def green8 (v : Half) : Byte := (((v >>> 5) &&& 0x3F).setWidth 8) <<< 2

/-- `B8` of a sample: bits 4:0 shifted left by 3, zero filled (R97). -/
def blue8 (v : Half) : Byte := ((v &&& 0x1F).setWidth 8) <<< 3

end Sys2Proof.Machine
end

