-- ==== Sys2Proof/Machine/Checksum.lean ====
section
/-! DEFINITION. The checksum command (41_checksum.md R120 to R126). -/

namespace Sys2Proof.Machine

/-- `X0` (R4). UNVERIFIED: the source's literal is unaudited (D37; log 18). -/
def peacX0 : Half := 0x1234

/-- `Y0` (R4). UNVERIFIED: the source's literal is unaudited (D37; log 18). -/
def peacY0 : Word := 0xABCD

/-- The accumulators before the first word, `C` seeded with the submitted byte count (R123, C2). -/
def peacInit (len : Word) : ChecksumState := ⟨peacX0, peacY0, len⟩

/-- The four steps for one word, in their fixed order (R125); `Y` is not masked (C3). -/
def peacStep (a : ChecksumState) (w : Half) : ChecksumState :=
  let sum := a.c + a.x.setWidth 32 + a.y
  { x := sum.setWidth 16
    y := a.x.setWidth 32 + w.setWidth 32
    c := sum >>> 16 }

/-- The 16-bit little-endian words of a buffer; a trailing odd byte is ignored (R122, R124). -/
def wordsOf : List Byte → List Half
  | lo :: hi :: rest => halfOfBytes lo hi :: wordsOf rest
  | _ => []

/-- The fold over the words, in increasing order (R125). -/
def peacRun (len : Word) (bs : List Byte) : ChecksumState :=
  (wordsOf bs).foldl peacStep (peacInit len)

/-- The final result `X | (Y << 16)` modulo 2^32 (R126). -/
def peacResult (a : ChecksumState) : Word :=
  a.x.setWidth 32 ||| (a.y <<< 16)

/-- The bytes `CHECKSUM` reads: `buf[0 .. 2*floor(CKLEN/2)-1]` (R120, R122). -/
def checksumBytes (b : Buffer) (s : State) : List Byte :=
  s.bytesAt b 0 (2 * (s.cklen.toNat / 2))

/-- `CHECKSUM <buf>` (R120). -/
def execChecksum (b : Buffer) (s : State) : Host.Outcome State Fault Refusal :=
  if checksumLengthOk b s then
    let a := peacRun s.cklen (checksumBytes b s)
    .next (s.storeResult (peacResult a) a).complete
  else .next (s.fail .invalidGeometry 0)

end Sys2Proof.Machine
end

