-- ==== Sys2Proof/Machine/Transcode.lean ====
section
/-! DEFINITION. The four transcoder commands (40_transcode.md R90, R95, R96, R98, R99). A meaning is the command from the
operand values in the state to its end, one indivisible step (20_memory.md R58, 42_host_interface.md R144). -/

namespace Sys2Proof.Machine

/-- The sequence of a T command (R90): format check, geometry check, body, results, end. Every check precedes every
write. -/
def transcode (op : TOp) (fmt : PixelFormatTag) (body : List Byte → List Byte) (s : State) :
    Host.Outcome State Fault Refusal :=
  match outTag op fmt with
  | none => .next (s.fail .unsupportedFormat fmt.code)
  | some tag =>
    if geometryOk op fmt s then .next (s.storeOutput (body s.inputBytes) tag).complete
    else .next (s.fail .invalidGeometry 0)

/-- Body of `NONE`: the input bytes (R95). -/
def copyBytes (bs : List Byte) : List Byte := bs

/-- Body of `SWAP_CH0_CH2`: bytes 0 and 2 of every group of 4 consecutive bytes exchanged (R96). The checks leave no
partial group (R104). -/
def swapGroups : List Byte → List Byte
  | b0 :: b1 :: b2 :: b3 :: rest => b2 :: b1 :: b0 :: b3 :: swapGroups rest
  | short => short

/-- Body of `RGB565_TO_RGB888`: every little-endian sample to `R8 G8 B8` (R98). The checks leave no odd byte (R104). -/
def expandToRgb : List Byte → List Byte
  | lo :: hi :: rest =>
    red8 (halfOfBytes lo hi) :: green8 (halfOfBytes lo hi) :: blue8 (halfOfBytes lo hi) :: expandToRgb rest
  | _ => []

/-- Body of `RGB565_TO_BGR888`: every little-endian sample to `B8 G8 R8` (R99). -/
def expandToBgr : List Byte → List Byte
  | lo :: hi :: rest =>
    blue8 (halfOfBytes lo hi) :: green8 (halfOfBytes lo hi) :: red8 (halfOfBytes lo hi) :: expandToBgr rest
  | _ => []

/-- `NONE <fmt>` (R95). -/
def execNone (fmt : PixelFormatTag) (s : State) : Host.Outcome State Fault Refusal :=
  transcode .none fmt copyBytes s

/-- `SWAP_CH0_CH2 <fmt>` (R96). -/
def execSwapCh0Ch2 (fmt : PixelFormatTag) (s : State) : Host.Outcome State Fault Refusal :=
  transcode .swapCh0Ch2 fmt swapGroups s

/-- `RGB565_TO_RGB888 <fmt>` (R98). -/
def execRgb565ToRgb888 (fmt : PixelFormatTag) (s : State) : Host.Outcome State Fault Refusal :=
  transcode .rgb565ToRgb888 fmt expandToRgb s

/-- `RGB565_TO_BGR888 <fmt>` (R99). -/
def execRgb565ToBgr888 (fmt : PixelFormatTag) (s : State) : Host.Outcome State Fault Refusal :=
  transcode .rgb565ToBgr888 fmt expandToBgr s

end Sys2Proof.Machine
end

