-- ==== Sys2Proof/Machine/Dispatch.lean ====
section
/-! DEFINITION. One arm per constructor of Instr: each calls the meaning of its command. -/

namespace Sys2Proof.Machine

/-- What the command in flight does from the state in which it runs to its end (42_host_interface.md R144; log 20). -/
def exec (i : Instr) (s : State) : Host.Outcome State Fault Refusal :=
  match i with
  | .none fmt => Sys2Proof.Machine.execNone fmt s
  | .swapCh0Ch2 fmt => Sys2Proof.Machine.execSwapCh0Ch2 fmt s
  | .rgb565ToRgb888 fmt => Sys2Proof.Machine.execRgb565ToRgb888 fmt s
  | .rgb565ToBgr888 fmt => Sys2Proof.Machine.execRgb565ToBgr888 fmt s
  | .checksum bsel => Sys2Proof.Machine.execChecksum bsel s

end Sys2Proof.Machine
end

