-- ==== Sys2Proof/Machine/HostAccess.lean ====
section
/-! DEFINITION. What the host does to the block, one access at a time (42_host_interface.md R141 to R149, 70_reset_and_hazards.md
R180 to R184). An access the spec leaves undefined is refused (U6, U8, U9; log 13). -/

namespace Sys2Proof.Machine

/-- `RD reg` (R141). -/
def hostReadReg (off : Nat) (s : State) : Host.Outcome State Fault Refusal :=
  match regAt off with
  | none => .refused .undefinedRegisterOffset
  | some r => .next (if s.regReadable r then s.returnValue (s.reg r) else s.returnFreeWord)

/-- `WR reg, v` (R142, R143); forbidden while BUSY = 1 (R183). -/
def hostWriteReg (off : Nat) (v : Word) (s : State) : Host.Outcome State Fault Refusal :=
  match regAt off with
  | none => .refused .undefinedRegisterOffset
  | some r => if s.busy then .refused .hostWriteWhileBusy else .next (s.writeReg v r)

/-- Host byte read of `IBUF[i]`, allowed at any time (R145, R184). -/
def hostReadIbuf (i : Nat) (s : State) : Host.Outcome State Fault Refusal :=
  if i < s.params.ibufCap then
    match s.ibuf.read i with
    | some b => .next (s.returnValue (b.setWidth 32))
    | none => .next (s.returnFreeByte i)
  else .refused .offsetBeyondCapacity

/-- Host byte write of `IBUF[i]` (R145); forbidden while BUSY = 1 (R183). -/
def hostWriteIbuf (i : Nat) (b : Byte) (s : State) : Host.Outcome State Fault Refusal :=
  if i < s.params.ibufCap then
    if s.busy then .refused .hostWriteWhileBusy else .next { s with ibuf := s.ibuf.write i b }
  else .refused .offsetBeyondCapacity

/-- Whether a host read of `OBUF[i]` returns the byte held there: `BUSY = 0` and `i < OBUF_LEN` (R145). -/
def State.obufReadable (s : State) (i : Nat) : Bool :=
  !s.busy && decide (i < s.obufLen.toNat)

/-- Host byte read of `OBUF[i]`, allowed at any time (R145). -/
def hostReadObuf (i : Nat) (s : State) : Host.Outcome State Fault Refusal :=
  if i < s.params.obufCap then
    match s.obuf.read i with
    | some b => .next (if s.obufReadable i then s.returnValue (b.setWidth 32) else s.returnFreeByte i)
    | none => .next (s.returnFreeByte i)
  else .refused .offsetBeyondCapacity

/-- `RD STATUS`, repeated while it returns `BUSY = 1` (R80, R146; log 11). -/
def hostPoll (s : State) : Host.Outcome State Fault Refusal :=
  let s' := s.returnValue s.status
  .next (if s.busy then { s' with host := .poll :: s'.host } else s')

/-- One host access (R149). -/
def hostAccess (a : HostAccess) (s : State) : Host.Outcome State Fault Refusal :=
  match a with
  | .rd off => hostReadReg off s
  | .wr off v => hostWriteReg off v s
  | .rdIbuf i => hostReadIbuf i s
  | .wrIbuf i b => hostWriteIbuf i b s
  | .rdObuf i => hostReadObuf i s
  | .wrObuf _ _ => .refused .hostWriteToObuf
  | .otherWidth => .refused .undefinedAccessWidth
  | .poll => hostPoll s
  | .reset => .next s.assertReset

end Sys2Proof.Machine
end

