-- ==== Sys2Proof/Machine/Command.lean ====
section
/-! DEFINITION. Which agent moves next (42_host_interface.md R140, R144; log 9), and the end of the command in flight. -/

namespace Sys2Proof.Machine

/-- The end of the command in flight, one step (R144; log 12): the word latched in `LCMD` is decoded and performed; an
illegal word fails with `IllegalCommand` before any other operand is read (R76, R163, R164). -/
def endOfCommand (s : State) : Host.Outcome State Fault Refusal :=
  match decode s.lcmd with
  | .command i => exec i s
  | .illegal _ => .next (s.fail .illegalCommand 0)

/-- The next move: nothing to do, the host performs an access, or the block ends the command in flight; with the state
in which the move is made, the access and the turn taken out. -/
inductive Move where
  | idle
  | hostMoves (a : HostAccess) (s : State)
  | blockMoves (s : State)
  deriving DecidableEq, Repr

/-- While a command is in flight `turns` says which agent moves; where it says nothing, or the host has no access left,
the block ends the command (R144, R188, U11; log 9). While the block is idle the host performs its next access. -/
def nextMove (s : State) : Move :=
  if s.busy then
    match s.turns, s.host with
    | .host :: ts, a :: rest => .hostMoves a { s with turns := ts, host := rest }
    | ts, _ => .blockMoves { s with turns := ts.tail }
  else
    match s.host with
    | [] => .idle
    | a :: rest => .hostMoves a { s with host := rest }

/-- The command word is placed where the block takes its next command: it is in flight, and the block moves next. -/
def State.placeCommand (v : Word) (s : State) : State :=
  { s.launch v with turns := [] }

end Sys2Proof.Machine
end

