-- ==== Sys2Proof/Machine/Step.lean ====
section
/-! DEFINITION. One step of the machine: one host access, or the end of the command in flight (42_host_interface.md R140). -/

namespace Sys2Proof.Machine

/-- One step. An idle block with no host access to come keeps its state (60_exceptions.md R173; log 16). -/
def step (s : State) : Host.Outcome State Fault Refusal :=
  match nextMove s with
  | .idle => .next s
  | .hostMoves a s' => hostAccess a s'
  | .blockMoves s' => endOfCommand s'

/-- `s` with the command word `w` in flight as the very next thing the block does (log 8). -/
def State.withFetchWord (s : State) (nbits w : Nat) : State :=
  s.placeCommand (tableWord nbits w)

end Sys2Proof.Machine
end

