-- ==== Sys2Proof/Safety.lean ====
section
/-! DEFINITION. The terms claims are stated in: the invariant of a block instance, the checksum written as the spec's own
arithmetic on natural numbers, and which host accesses wait for a command without disturbing it. -/

namespace Sys2Proof.Machine

/-- The invariants of `STATUS` (10_state.md R23). -/
structure StatusInv (s : State) : Prop where
  /-- At most one of `BUSY`, `DONE`, `ERR` is 1. -/
  busyNotDone : ¬ (s.busy = true ∧ s.done = true)
  busyNotErr : ¬ (s.busy = true ∧ s.err = true)
  doneNotErr : ¬ (s.done = true ∧ s.err = true)
  /-- `ECODE ≠ 0` exactly when `ERR = 1`. -/
  ecodeIffErr : s.ecode ≠ 0 ↔ s.err = true
  /-- `ETAG ≠ 0` only when `ECODE = 2`. -/
  etagOnlyUnsupported : s.etag ≠ 0 → s.ecode = 2
  /-- The reserved bits 3, 7:6 and 31:11 read 0. -/
  reservedZero : s.status.extractLsb' 3 1 = 0 ∧ s.status.extractLsb' 6 2 = 0 ∧ s.status.extractLsb' 11 21 = 0

/-- The invariant of a block instance. -/
structure Inv (s : State) : Prop where
  /-- The parameters meet the constraints of 00_scope.md R4. -/
  paramsOk : s.params.ok = true
  /-- `STATUS` is one R23 allows. -/
  statusInv : StatusInv s
  /-- `OFMT` holds a tag code in bits 2:0 and 0 above them (R28). -/
  ofmtIsTag : s.ofmt.toNat ≤ 6
  /-- IBUF is in its canonical form and within its capacity (R30). -/
  ibufWf : s.ibuf.wf = true
  ibufWithin : ∀ i, s.params.ibufCap ≤ i → s.ibuf.read i = none
  /-- OBUF is in its canonical form, holds exactly the output buffer, and the output is within the capacity (R31). -/
  obufWf : s.obuf.wf = true
  obufExact : ∀ i, s.obuf.read i = none ↔ s.obufLen.toNat ≤ i
  obufFits : s.obufLen.toNat ≤ s.params.obufCap
  /-- `Y ≤ 0x1FFFE` (R32, R127). -/
  yBound : s.cks.y.toNat ≤ 0x1FFFE
  /-- The command in flight is the one `CMD` shows (R33, R63). -/
  latched : s.busy = true → s.lcmd = s.cmd

/-- The block makes the next move: a command is in flight, and it is not the host's turn or the host has nothing to do. -/
def State.blockMovesNext (s : State) : Prop :=
  s.busy = true ∧ (s.turns.head? ≠ some .host ∨ s.host = [])

/-- The host makes the next move: it has an access to perform, and no command is in flight or it is its turn. -/
def State.hostMovesNext (s : State) : Prop :=
  s.host ≠ [] ∧ (s.busy = false ∨ s.turns.head? = some .host)

/-- The state in which the host's access is performed: the access and the turn it used are taken out. -/
def State.afterHostTurn (s : State) : State :=
  if s.busy then { s with host := s.host.tail, turns := s.turns.tail } else { s with host := s.host.tail }

/-- The state in which the block ends the command in flight: the turn it used is taken out. -/
def State.afterBlockTurn (s : State) : State := { s with turns := s.turns.tail }

/-- An access that returns a value, changes nothing in the block and is never refused: `poll`, or a read of a register of
the map (R141, R184). -/
def HostAccess.waits : HostAccess → Bool
  | .poll => true
  | .rd off => (regAt off).isSome
  | _ => false

/-- Checks 1 to 4 of the geometry check, on exact products (40_transcode.md R93, R94). -/
def State.ChecksOneToFour (s : State) (fmt : PixelFormatTag) : Prop :=
  (1 ≤ s.width.toNat ∧ 1 ≤ s.height.toNat ∧ 1 ≤ s.channels.toNat) ∧
  s.channels.toNat = stride s.params fmt ∧
  s.ibufLen.toNat ≤ s.params.ibufCap ∧
  s.ibufLen.toNat = s.height.toNat * s.width.toNat * s.channels.toNat

/-- Check 5 of the geometry check, which only the swap makes (R93). -/
def State.CheckFive (s : State) : Prop := s.width.toNat * s.channels.toNat % 4 = 0

/-- The length check of `CHECKSUM` (41_checksum.md R121). -/
def State.ChecksumLengths (s : State) (b : Buffer) : Prop :=
  (s.bufLen b).toNat ≤ s.bufCap b ∧ s.cklen.toNat ≤ (s.bufLen b).toNat

/-- The commands whose declared format the operation accepts: the filled cells of the table of R91, and `CHECKSUM`, which
has no format. -/
def formatAccepted : Instr → Bool
  | .none _ => true
  | .swapCh0Ch2 fmt => fmt == .yuvx || fmt == .uyvy422
  | .rgb565ToRgb888 fmt => fmt == .rgb565
  | .rgb565ToBgr888 fmt => fmt == .rgb565
  | .checksum _ => true

/-- The checks a command makes on the registers once its format is accepted (R93, R121). -/
def State.OperandChecks (s : State) : Instr → Prop
  | .none fmt => s.ChecksOneToFour fmt
  | .swapCh0Ch2 fmt => s.ChecksOneToFour fmt ∧ s.CheckFive
  | .rgb565ToRgb888 fmt => s.ChecksOneToFour fmt
  | .rgb565ToBgr888 fmt => s.ChecksOneToFour fmt
  | .checksum b => s.ChecksumLengths b

/-- The step from `u` to `v` is no reset and does not end a T command successfully; it may be any other host access, a
failed command or a `CHECKSUM` (70_reset_and_hazards.md R186). -/
def State.LeavesOutput (u v : State) : Prop :=
  ¬ (u.hostMovesNext ∧ ∃ rest, u.host = .reset :: rest) ∧
  ¬ (u.blockMovesNext ∧ v.done = true ∧ ∃ i, decode u.lcmd = .command i ∧ ∀ b, i ≠ .checksum b)

/-- `v` comes after `t` by steps each of which leaves the output of the last successful T command (R186). -/
inductive OutputKept (t : State) : State → Prop where
  | refl : OutputKept t t
  | next {u v : State} (h : OutputKept t u) (hs : step u = .next v) (hl : u.LeavesOutput v) : OutputKept t v

/-- Two states that differ at most in what the spec calls unspecified and unobservable: `X`, `Y`, `C`; `LCMD` while no
command is in flight; `OFMT` and `RESULT` before they are defined (R32, R33, R34, U3, U12). -/
structure SameUpToHidden (s u : State) : Prop where
  same : u = { s with cks := u.cks, lcmd := u.lcmd, ofmt := u.ofmt, result := u.result }
  lcmdInFlight : s.busy = true → u.lcmd = s.lcmd
  ofmtDefinedSame : s.ofmtDefined = true → u.ofmt = s.ofmt
  resultDefinedSame : s.resultDefined = true → u.result = s.result

end Sys2Proof.Machine

namespace Sys2Proof.Spec

/-- The accumulators `(X, Y, C)` as natural numbers. -/
structure Peac where
  x : Nat
  y : Nat
  c : Nat
  deriving DecidableEq, Repr

/-- 41_checksum.md R125 as a single assignment: `S = (C + X + Y) mod 2^32`, `(S & 0xFFFF, X + w, S >> 16)`, with `X + w`
taken modulo 2^32. -/
def peacStep (a : Peac) (w : Nat) : Peac :=
  { x := (a.c + a.x + a.y) % 2 ^ 32 % 2 ^ 16
    y := (a.x + w) % 2 ^ 32
    c := (a.c + a.x + a.y) % 2 ^ 32 / 2 ^ 16 }

/-- The accumulators after the first `n` words of a buffer given as a function from offsets to byte values, seeded with
the byte count `len` (R123, R124). -/
def peac (len : Nat) (byte : Nat → Nat) : Nat → Peac
  | 0 => ⟨0x1234, 0xABCD, len⟩
  | n + 1 => peacStep (peac len byte n) (byte (2 * n) + 256 * byte (2 * n + 1))

/-- `RESULT = (X | (Y << 16)) mod 2^32` (R126), written `X + 2^16 * Y` since `X < 2^16`. -/
def peacResult (a : Peac) : Nat := (a.x + 2 ^ 16 * a.y) % 2 ^ 32

/-- `checksum(B, L)` of R120 to R126. -/
def checksum (len : Nat) (byte : Nat → Nat) : Nat := peacResult (peac len byte (len / 2))

end Sys2Proof.Spec
end

