-- ==== Sys2Proof/Certificates/Slice0/Obligations.lean ====
section
/-! DEFINITION. The statements about MPP-PXC. -/

open Sys2Proof Sys2Proof.Machine

/-! ### Encoding -/

/-- Eight legal and six illegal words of 95_test_vectors.md V-E, each with its decoding. -/
def Obligations.ListedWordsDecodeAsListed : Prop :=
  decode 0x00000000 = .command (.none .yuvx) ∧
  decode 0x00000050 = .command (.none .bgr888) ∧
  decode 0x00000001 = .command (.swapCh0Ch2 .yuvx) ∧
  decode 0x00000021 = .command (.swapCh0Ch2 .uyvy422) ∧
  decode 0x00000062 = .command (.rgb565ToRgb888 .rgb565) ∧
  decode 0x00000063 = .command (.rgb565ToBgr888 .rgb565) ∧
  decode 0x00000004 = .command (.checksum .ibuf) ∧
  decode 0x00000084 = .command (.checksum .obuf) ∧
  decode 0x00000005 = .illegal .reservedOpc ∧
  decode 0x00000071 = .illegal .reservedFmt ∧
  decode 0x00000080 = .illegal .bselInFormatT ∧
  decode 0x00000014 = .illegal .fmtInFormatK ∧
  decode 0x0000006A = .illegal .reservedBit ∧
  decode 0x80000004 = .illegal .reservedBit

/-- 30_encoding.md R79: the word of each mnemonic, with the tag codes of R73. -/
def Obligations.CommandWordsFollowTheAssemblerFormula : Prop :=
  (PixelFormatTag.yuvx.code = 0 ∧ PixelFormatTag.vuyx.code = 1 ∧ PixelFormatTag.uyvy422.code = 2 ∧
    PixelFormatTag.vyuy422.code = 3 ∧ PixelFormatTag.rgb888.code = 4 ∧ PixelFormatTag.bgr888.code = 5 ∧
    PixelFormatTag.rgb565.code = 6) ∧
  (∀ t : PixelFormatTag,
    encode (.none t) = (t.code.setWidth 32 <<< 4) ||| 0 ∧
    encode (.swapCh0Ch2 t) = (t.code.setWidth 32 <<< 4) ||| 1 ∧
    encode (.rgb565ToRgb888 t) = (t.code.setWidth 32 <<< 4) ||| 2 ∧
    encode (.rgb565ToBgr888 t) = (t.code.setWidth 32 <<< 4) ||| 3) ∧
  encode (.checksum .ibuf) = ((0 : Word) <<< 7) ||| 4 ∧
  encode (.checksum .obuf) = ((1 : Word) <<< 7) ||| 4

/-- Decoding and encoding are inverse to each other on every word and every command (R71, R77, R78). -/
def Obligations.DecodeAndEncodeAgree : Prop :=
  ∀ (w : Word) (i : Instr), decode w = .command i ↔ w = encode i

/-- 30_encoding.md R76: the four conditions, the thirty legal words, what an illegal word does, and the
legal word `0x61`; the turn taken out of the schedule is the model's own (log 9). -/
def Obligations.LegalWordsAreTheThirtyOfTheRule : Prop :=
  (∀ w : Word, (∃ i, decode w = .command i) ↔
    (w.extractLsb' 8 24 = 0 ∧ w.getLsbD 3 = false) ∧
    (w.extractLsb' 0 3).toNat ≤ 4 ∧
    ((w.extractLsb' 0 3).toNat ≤ 3 → w.getLsbD 7 = false ∧ (w.extractLsb' 4 3).toNat ≤ 6) ∧
    ((w.extractLsb' 0 3).toNat = 4 → w.extractLsb' 4 3 = 0)) ∧
  (∀ w : Word, legalWord w = true ↔ ∃ i, decode w = .command i) ∧
  (∀ w : Word, legalWord w = true → w.toNat < 256) ∧
  ((List.range 256).filter fun n => legalWord (BitVec.ofNat 32 n)).length = 30 ∧
  (∀ s : State, s.blockMovesNext → legalWord s.lcmd = false →
    step s = .next { s.afterBlockTurn with status := 0x00000034 }) ∧
  (legalWord 0x61 = true ∧ ∀ s : State, s.blockMovesNext → s.lcmd = 0x61 →
    step s = .next { s.afterBlockTurn with status := 0x00000624 })

/-! ### The step, the launch and the host's accesses -/

/-- When the block moves next and the latched word decodes to a command, the step is that command, performed in the state
with the turn taken out (42_host_interface.md R144, log 9). -/
def Obligations.StepRunsTheDecodedCommand : Prop :=
  ∀ (s : State) (i : Instr), s.blockMovesNext → decode s.lcmd = .command i → step s = exec i s.afterBlockTurn

/-- 42_host_interface.md R143: a launch writes `CMD`, `LCMD`, `STATUS` and nothing else, whatever the word, and the
operands and IBUF stay what they were at launch while the command is in flight. -/
def Obligations.LaunchLatchesTheCommand : Prop :=
  (∀ (s : State) (v : Word) (rest : List HostAccess), s.busy = false → s.host = .wr 0x00 v :: rest →
    step s = .next { s with host := rest, cmd := v, lcmd := v, status := 0x00000001 }) ∧
  (∀ s t : State, s.busy = true → step s = .next t → t.busy = true →
    t.cmd = s.cmd ∧ t.lcmd = s.lcmd ∧ t.width = s.width ∧ t.height = s.height ∧ t.channels = s.channels ∧
    t.ibufLen = s.ibufLen ∧ t.cklen = s.cklen ∧ t.ibuf = s.ibuf ∧
    t.obufLen = s.obufLen ∧ t.ofmt = s.ofmt ∧ t.result = s.result ∧ t.obuf = s.obuf)

/-- 42_host_interface.md R142: a register write while BUSY = 0 stores into an operand register and leaves a read-only
register. That a write to any register, `CMD` included, is refused while BUSY = 1 is the model's DEDUCED form (log 13) of
70_reset_and_hazards.md R183 and 93_implementation_defined.md U6. -/
def Obligations.RegisterWritesStoreOrAreIgnored : Prop :=
  (∀ (s : State) (v : Word) (rest : List HostAccess), s.busy = false →
    (s.host = .wr 0x08 v :: rest → step s = .next { s with host := rest, width := v }) ∧
    (s.host = .wr 0x0C v :: rest → step s = .next { s with host := rest, height := v }) ∧
    (s.host = .wr 0x10 v :: rest → step s = .next { s with host := rest, channels := v }) ∧
    (s.host = .wr 0x14 v :: rest → step s = .next { s with host := rest, ibufLen := v }) ∧
    (s.host = .wr 0x18 v :: rest → step s = .next { s with host := rest, cklen := v }) ∧
    (s.host = .wr 0x04 v :: rest → step s = .next { s with host := rest }) ∧
    (s.host = .wr 0x1C v :: rest → step s = .next { s with host := rest }) ∧
    (s.host = .wr 0x20 v :: rest → step s = .next { s with host := rest }) ∧
    (s.host = .wr 0x24 v :: rest → step s = .next { s with host := rest })) ∧
  (∀ (s : State) (off : Nat) (v : Word) (rest : List HostAccess), s.busy = true → s.turns.head? = some .host →
    s.host = .wr off v :: rest →
    off ∈ [0x00, 0x04, 0x08, 0x0C, 0x10, 0x14, 0x18, 0x1C, 0x20, 0x24] →
    step s = .refused .hostWriteWhileBusy)

/-- Register reads (R141, R184, U3, U7): the value held, or some value where the spec says it is unspecified; only the
MODEL's own fields move (log 3, log 7, log 10). -/
def Obligations.RegisterReadsReturnTheValueHeld : Prop :=
  ∀ (s : State) (rest : List HostAccess), s.hostMovesNext →
    (s.host = .rd 0x00 :: rest → step s = .next { s.afterHostTurn with rdata := s.cmd }) ∧
    (s.host = .rd 0x04 :: rest → step s = .next { s.afterHostTurn with rdata := s.status }) ∧
    (s.host = .rd 0x08 :: rest → step s = .next { s.afterHostTurn with rdata := s.width }) ∧
    (s.host = .rd 0x0C :: rest → step s = .next { s.afterHostTurn with rdata := s.height }) ∧
    (s.host = .rd 0x10 :: rest → step s = .next { s.afterHostTurn with rdata := s.channels }) ∧
    (s.host = .rd 0x14 :: rest → step s = .next { s.afterHostTurn with rdata := s.ibufLen }) ∧
    (s.host = .rd 0x18 :: rest → step s = .next { s.afterHostTurn with rdata := s.cklen }) ∧
    (s.host = .rd 0x1C :: rest → s.busy = false → step s = .next { s.afterHostTurn with rdata := s.obufLen }) ∧
    (s.host = .rd 0x20 :: rest → s.busy = false → s.ofmtDefined = true →
      step s = .next { s.afterHostTurn with rdata := s.ofmt }) ∧
    (s.host = .rd 0x24 :: rest → s.busy = false → s.resultDefined = true →
      step s = .next { s.afterHostTurn with rdata := s.result }) ∧
    ((s.host = .rd 0x1C :: rest ∧ s.busy = true ∨
      s.host = .rd 0x20 :: rest ∧ (s.busy = true ∨ s.ofmtDefined = false) ∨
      s.host = .rd 0x24 :: rest ∧ (s.busy = true ∨ s.resultDefined = false)) →
      ∃ v, step s = .next { s.afterHostTurn with rdata := v, draws := s.draws + 1 })

/-- 42_host_interface.md R145: the three buffer accesses, and what is not defined there (93_implementation_defined.md U6,
U8, U9). The model's choices: which name a refusal has where two apply (DESIGN CHOICE, log 13: an offset at or beyond
the capacity before BUSY, a write to OBUF before its offset), what a read returned stands in `rdata` (log 10), and an
unspecified byte is a draw counted in `draws` (log 5, log 6, log 7). -/
def Obligations.BufferAccessesReadAndWriteOneByte : Prop :=
  (∀ (s : State) (i : Nat) (b : Byte) (rest : List HostAccess), s.hostMovesNext → s.host = .wrIbuf i b :: rest →
    (s.busy = false → i < s.params.ibufCap →
      ∃ m : Memory, step s = .next { s with host := rest, ibuf := m } ∧ m.read i = some b ∧
        ∀ j, j ≠ i → m.read j = s.ibuf.read j) ∧
    (s.busy = true → i < s.params.ibufCap → step s = .refused .hostWriteWhileBusy) ∧
    (s.params.ibufCap ≤ i → step s = .refused .offsetBeyondCapacity)) ∧
  (∀ (s : State) (i : Nat) (rest : List HostAccess), s.hostMovesNext → s.host = .rdIbuf i :: rest →
    (∀ b, i < s.params.ibufCap → s.ibuf.read i = some b →
      step s = .next { s.afterHostTurn with rdata := b.setWidth 32 }) ∧
    (i < s.params.ibufCap → s.ibuf.read i = none →
      ∃ b : Byte, step s = .next { s.afterHostTurn with rdata := b.setWidth 32, draws := s.draws + 1 }) ∧
    (s.params.ibufCap ≤ i → step s = .refused .offsetBeyondCapacity)) ∧
  (∀ (s : State) (i : Nat) (rest : List HostAccess), s.hostMovesNext → s.host = .rdObuf i :: rest →
    (∀ b, i < s.params.obufCap → s.busy = false → i < s.obufLen.toNat → s.obuf.read i = some b →
      step s = .next { s.afterHostTurn with rdata := b.setWidth 32 }) ∧
    (i < s.params.obufCap → (s.busy = true ∨ s.obufLen.toNat ≤ i) →
      ∃ b : Byte, step s = .next { s.afterHostTurn with rdata := b.setWidth 32, draws := s.draws + 1 }) ∧
    (s.params.obufCap ≤ i → step s = .refused .offsetBeyondCapacity)) ∧
  (∀ (s : State) (i : Nat) (b : Byte) (rest : List HostAccess), s.hostMovesNext → s.host = .wrObuf i b :: rest →
    step s = .refused .hostWriteToObuf)

/-- 42_host_interface.md R148: accesses outside the defined interface are refused. The names of the refusals, and that
the offset's name is given also while BUSY = 1, are the model's choice (DESIGN CHOICE, log 13). -/
def Obligations.AccessesOutsideTheInterfaceAreRefused : Prop :=
  ∀ (s : State) (rest : List HostAccess), s.hostMovesNext →
    (∀ off, off ∉ [0x00, 0x04, 0x08, 0x0C, 0x10, 0x14, 0x18, 0x1C, 0x20, 0x24] →
      (s.host = .rd off :: rest → step s = .refused .undefinedRegisterOffset) ∧
      (∀ v, s.host = .wr off v :: rest → step s = .refused .undefinedRegisterOffset)) ∧
    (s.host = .otherWidth :: rest → step s = .refused .undefinedAccessWidth) ∧
    (∀ i b, s.params.ibufCap ≤ i →
      (s.host = .rdIbuf i :: rest → step s = .refused .offsetBeyondCapacity) ∧
      (s.host = .wrIbuf i b :: rest → step s = .refused .offsetBeyondCapacity)) ∧
    (∀ i, s.params.obufCap ≤ i → s.host = .rdObuf i :: rest → step s = .refused .offsetBeyondCapacity)

/-- Reads have no side effect on the block (20_memory.md R57, 70_reset_and_hazards.md R190): only the MODEL's own fields
`host`, `turns`, `rdata`, `draws` move. -/
def Obligations.HostReadsChangeNothingInTheBlock : Prop :=
  ∀ (s t : State) (a : HostAccess) (rest : List HostAccess), s.hostMovesNext → s.host = a :: rest →
    (a = .poll ∨ (∃ off, a = .rd off) ∨ (∃ i, a = .rdIbuf i) ∨ ∃ i, a = .rdObuf i) → step s = .next t →
    t = { s with host := t.host, turns := t.turns, rdata := t.rdata, draws := t.draws }

/-- `poll` reads `STATUS` and stays the host's next access while BUSY = 1 (R80, R146; log 11). -/
def Obligations.PollRepeatsWhileBusy : Prop :=
  ∀ (s : State) (rest : List HostAccess), s.hostMovesNext → s.host = .poll :: rest →
    step s = .next { s.afterHostTurn with rdata := s.status, host := if s.busy then .poll :: rest else rest }

/-! ### The transcoder commands -/

/-- 40_transcode.md R92, with the parameter `STRIDE_YUV422`. Its value 2 after reset is PRESUMED (log 2): the spec's
default, which R92 and 93_implementation_defined.md G1 mark as from general knowledge. -/
def Obligations.StridesOfTheTags : Prop :=
  State.reset.params.strideYuv422 = 2 ∧
  ∀ p : Params, stride p .rgb565 = 2 ∧ stride p .rgb888 = 3 ∧ stride p .bgr888 = 3 ∧ stride p .yuvx = 4 ∧
    stride p .vuyx = 4 ∧ stride p .uyvy422 = p.strideYuv422 ∧ stride p .vyuy422 = p.strideYuv422

/-- 40_transcode.md R95: `NONE` copies the input buffer, or fails on checks 1 to 4. -/
def Obligations.NoneCopiesTheInput : Prop :=
  ∀ (s : State) (fmt : PixelFormatTag),
    encode (.none fmt) = fmt.code.setWidth 32 <<< 4 ∧
    (s.ChecksOneToFour fmt →
      ∃ t, exec (.none fmt) s = .next t ∧ t.status = 0x00000002 ∧ t.obufLen = s.ibufLen ∧
        t.ofmt = fmt.code.setWidth 32 ∧ t.ofmtDefined = true ∧ t.ibuf = s.ibuf ∧ 1 ≤ s.ibufLen.toNat ∧
        ∀ i, i < s.ibufLen.toNat → t.obuf.read i = some (s.bufByte .ibuf i)) ∧
    (¬ s.ChecksOneToFour fmt → exec (.none fmt) s = .next { s with status := 0x00000014 })

/-- 40_transcode.md R96: `SWAP_CH0_CH2` exchanges bytes 0 and 2 of every group of 4 bytes, or fails. -/
def Obligations.SwapExchangesBytesZeroAndTwo : Prop :=
  ∀ (s : State) (fmt : PixelFormatTag),
    encode (.swapCh0Ch2 fmt) = (fmt.code.setWidth 32 <<< 4) ||| 1 ∧
    (∀ tag : PixelFormatTag, (fmt = .yuvx ∧ tag = .vuyx ∨ fmt = .uyvy422 ∧ tag = .vyuy422) → s.ChecksOneToFour fmt → s.CheckFive →
      ∃ t, exec (.swapCh0Ch2 fmt) s = .next t ∧ t.status = 0x00000002 ∧ t.obufLen = s.ibufLen ∧
        t.ofmt = tag.code.setWidth 32 ∧ t.ofmtDefined = true ∧ s.ibufLen.toNat % 4 = 0 ∧
        ∀ k, k < s.ibufLen.toNat / 4 →
          t.obuf.read (4 * k) = some (s.bufByte .ibuf (4 * k + 2)) ∧
          t.obuf.read (4 * k + 1) = some (s.bufByte .ibuf (4 * k + 1)) ∧
          t.obuf.read (4 * k + 2) = some (s.bufByte .ibuf (4 * k)) ∧
          t.obuf.read (4 * k + 3) = some (s.bufByte .ibuf (4 * k + 3))) ∧
    ((fmt = .yuvx ∨ fmt = .uyvy422) → ¬ (s.ChecksOneToFour fmt ∧ s.CheckFive) →
      exec (.swapCh0Ch2 fmt) s = .next { s with status := 0x00000014 }) ∧
    (fmt ≠ .yuvx → fmt ≠ .uyvy422 →
      exec (.swapCh0Ch2 fmt) s = .next { s with status := 0x00000024 ||| (fmt.code.setWidth 32 <<< 8) })

/-- 40_transcode.md R98 with the formulas of R97: `RGB565_TO_RGB888` writes `R8 G8 B8` for every sample, or fails. -/
def Obligations.RgbOutputIsRedGreenBlue : Prop :=
  ∀ (s : State) (fmt : PixelFormatTag), s.params.ok = true →
    encode (.rgb565ToRgb888 fmt) = (fmt.code.setWidth 32 <<< 4) ||| 2 ∧
    (fmt = .rgb565 → s.ChecksOneToFour fmt →
      ∃ t, exec (.rgb565ToRgb888 fmt) s = .next t ∧ t.status = 0x00000002 ∧
        t.obufLen.toNat = 3 * s.width.toNat * s.height.toNat ∧ s.ibufLen.toNat = 2 * s.width.toNat * s.height.toNat ∧
        t.obufLen.toNat ≤ s.params.obufCap ∧ t.width = s.width ∧ t.height = s.height ∧ t.channels = s.channels ∧
        t.ofmt = 4 ∧ t.ofmtDefined = true ∧
        ∀ (k : Nat) (v : Half), k < s.ibufLen.toNat / 2 →
          v = (s.bufByte .ibuf (2 * k)).setWidth 16 ||| ((s.bufByte .ibuf (2 * k + 1)).setWidth 16 <<< 8) →
          t.obuf.read (3 * k) = some ((((v >>> 11) &&& 0x1F) <<< 3).setWidth 8) ∧
          t.obuf.read (3 * k + 1) = some ((((v >>> 5) &&& 0x3F) <<< 2).setWidth 8) ∧
          t.obuf.read (3 * k + 2) = some (((v &&& 0x1F) <<< 3).setWidth 8)) ∧
    (fmt = .rgb565 → ¬ s.ChecksOneToFour fmt →
      exec (.rgb565ToRgb888 fmt) s = .next { s with status := 0x00000014 }) ∧
    (fmt ≠ .rgb565 →
      exec (.rgb565ToRgb888 fmt) s = .next { s with status := 0x00000024 ||| (fmt.code.setWidth 32 <<< 8) })

/-- 40_transcode.md R99 with the formulas of R97: `RGB565_TO_BGR888` writes `B8 G8 R8` for every sample, or fails. -/
def Obligations.BgrOutputIsBlueGreenRed : Prop :=
  ∀ (s : State) (fmt : PixelFormatTag), s.params.ok = true →
    encode (.rgb565ToBgr888 fmt) = (fmt.code.setWidth 32 <<< 4) ||| 3 ∧
    (fmt = .rgb565 → s.ChecksOneToFour fmt →
      ∃ t, exec (.rgb565ToBgr888 fmt) s = .next t ∧ t.status = 0x00000002 ∧
        t.obufLen.toNat = 3 * s.width.toNat * s.height.toNat ∧ s.ibufLen.toNat = 2 * s.width.toNat * s.height.toNat ∧
        t.obufLen.toNat ≤ s.params.obufCap ∧ t.width = s.width ∧ t.height = s.height ∧ t.channels = s.channels ∧
        t.ofmt = 5 ∧ t.ofmtDefined = true ∧
        ∀ (k : Nat) (v : Half), k < s.ibufLen.toNat / 2 →
          v = (s.bufByte .ibuf (2 * k)).setWidth 16 ||| ((s.bufByte .ibuf (2 * k + 1)).setWidth 16 <<< 8) →
          t.obuf.read (3 * k) = some (((v &&& 0x1F) <<< 3).setWidth 8) ∧
          t.obuf.read (3 * k + 1) = some ((((v >>> 5) &&& 0x3F) <<< 2).setWidth 8) ∧
          t.obuf.read (3 * k + 2) = some ((((v >>> 11) &&& 0x1F) <<< 3).setWidth 8)) ∧
    (fmt = .rgb565 → ¬ s.ChecksOneToFour fmt →
      exec (.rgb565ToBgr888 fmt) s = .next { s with status := 0x00000014 }) ∧
    (fmt ≠ .rgb565 →
      exec (.rgb565ToBgr888 fmt) s = .next { s with status := 0x00000024 ||| (fmt.code.setWidth 32 <<< 8) }) ∧
    (∀ t u, exec (.rgb565ToRgb888 fmt) s = .next t → exec (.rgb565ToBgr888 fmt) s = .next u → t.done = true →
      ∀ k, k < s.ibufLen.toNat / 2 → u.obuf.read (3 * k) = t.obuf.read (3 * k + 2) ∧
        u.obuf.read (3 * k + 1) = t.obuf.read (3 * k + 1) ∧ u.obuf.read (3 * k + 2) = t.obuf.read (3 * k))

/-- 40_transcode.md R97: the expansion by left shift with zero fill, its range, its equivalent form and its boundary
vector. -/
def Obligations.ExpansionShiftsAndZeroFills : Prop :=
  (∀ v : Half,
    red8 v = (((v >>> 11) &&& 0x1F) <<< 3).setWidth 8 ∧ green8 v = (((v >>> 5) &&& 0x3F) <<< 2).setWidth 8 ∧
    blue8 v = ((v &&& 0x1F) <<< 3).setWidth 8 ∧
    red8 v = ((v >>> 8) &&& 0xF8).setWidth 8 ∧ green8 v = ((v >>> 3) &&& 0xFC).setWidth 8 ∧
    blue8 v = ((v <<< 3) &&& 0xF8).setWidth 8 ∧
    (red8 v).toNat ≤ 0xF8 ∧ (green8 v).toNat ≤ 0xFC ∧ (blue8 v).toNat ≤ 0xF8 ∧
    (red8 v).toNat % 8 = 0 ∧ (green8 v).toNat % 4 = 0 ∧ (blue8 v).toNat % 8 = 0) ∧
  (red8 0xFFFF = 0xF8 ∧ green8 0xFFFF = 0xFC ∧ blue8 0xFFFF = 0xF8) ∧
  (red8 0 = 0 ∧ green8 0 = 0 ∧ blue8 0 = 0)

/-- The frame of `NONE`, `SWAP_CH0_CH2`, `RGB565_TO_RGB888`, `RGB565_TO_BGR888` (40_transcode.md R100): only OBUF,
`OBUF_LEN`, `OFMT`, `STATUS` and the MODEL's own `ofmtDefined`, `draws` may change; no IBUF byte does; a failed one
changes no OBUF byte; after a successful one OBUF holds no value at or beyond `OBUF_LEN` (R105, log 6). -/
def Obligations.TranscoderFrame : Prop :=
  ∀ (i : Instr) (s t : State) (fmt : PixelFormatTag),
    (i = .none fmt ∨ i = .swapCh0Ch2 fmt ∨ i = .rgb565ToRgb888 fmt ∨ i = .rgb565ToBgr888 fmt) →
    exec i s = .next t →
    t = { s with
          status := t.status, obuf := t.obuf, obufLen := t.obufLen, ofmt := t.ofmt, ofmtDefined := t.ofmtDefined,
          draws := t.draws } ∧
    (∀ a, t.ibuf.read a = s.ibuf.read a) ∧
    (t.done = false → t.obufLen = s.obufLen ∧ t.ofmt = s.ofmt ∧ ∀ a, t.obuf.read a = s.obuf.read a) ∧
    (t.done = true → s.params.ok = true → ∀ a, t.obufLen.toNat ≤ a → t.obuf.read a = none)

/-- 40_transcode.md R94: the products of the geometry check do not wrap, and a product of 2^32 or more fails. -/
def Obligations.GeometryProductsDoNotWrap : Prop :=
  ∀ s : State, s.width.toNat * s.channels.toNat < 2 ^ 64 ∧
    s.height.toNat * s.width.toNat * s.channels.toNat < 2 ^ 96 ∧
    (2 ^ 32 ≤ s.height.toNat * s.width.toNat * s.channels.toNat →
      (∀ fmt, exec (.none fmt) s = .next { s with status := 0x00000014 }) ∧
      (∀ fmt, fmt = .yuvx ∨ fmt = .uyvy422 → exec (.swapCh0Ch2 fmt) s = .next { s with status := 0x00000014 }) ∧
      exec (.rgb565ToRgb888 .rgb565) s = .next { s with status := 0x00000014 } ∧
      exec (.rgb565ToBgr888 .rgb565) s = .next { s with status := 0x00000014 })

/-- 40_transcode.md R101: the swap's byte function is an involution; through the command interface the output tag is
refused, and a host that copies OBUF to IBUF and declares the original tag gets the original buffer back. -/
def Obligations.SwapIsAnInvolution : Prop :=
  (∀ bs : List Byte, bs.length % 4 = 0 → swapGroups (swapGroups bs) = bs) ∧
  (∀ s t : State, exec (.swapCh0Ch2 .yuvx) s = .next t → t.done = true →
    t.ofmt = PixelFormatTag.vuyx.code.setWidth 32 ∧
    exec (.swapCh0Ch2 .vuyx) t = .next { t with status := 0x00000124 }) ∧
  (∀ (s t u : State) (fmt : PixelFormatTag), exec (.swapCh0Ch2 fmt) s = .next t → t.done = true →
    u.width = s.width → u.height = s.height → u.channels = s.channels → u.ibufLen = s.ibufLen → u.params = s.params →
    (∀ i, i < s.ibufLen.toNat → u.ibuf.read i = t.obuf.read i) →
    ∃ v, exec (.swapCh0Ch2 fmt) u = .next v ∧ v.done = true ∧ v.obufLen = s.ibufLen ∧
      ∀ i, i < s.ibufLen.toNat → v.obuf.read i = some (s.bufByte .ibuf i))

/-- The leading dimensions do not influence the swap's output (40_transcode.md R102): two accepted swaps of the same
flat bytes give the same output, whatever their geometries and tags. -/
def Obligations.SwapIgnoresTheLeadingDimensions : Prop :=
  ∀ (s t u v : State) (fmt fmt' : PixelFormatTag), u.ibufLen = s.ibufLen →
    (∀ i, i < s.ibufLen.toNat → u.bufByte .ibuf i = s.bufByte .ibuf i) →
    exec (.swapCh0Ch2 fmt) s = .next t → t.done = true → exec (.swapCh0Ch2 fmt') u = .next v → v.done = true →
    v.obufLen = t.obufLen ∧ ∀ a, v.obuf.read a = t.obuf.read a

/-- The outputs of a T command are a function of its named inputs (00_scope.md R7): the command, the geometry registers,
`IBUF_LEN` and the first `IBUF_LEN` bytes of IBUF; no other state influences them. -/
def Obligations.TranscoderDependsOnItsInputsOnly : Prop :=
  ∀ (i : Instr) (fmt : PixelFormatTag) (s u : State),
    (i = .none fmt ∨ i = .swapCh0Ch2 fmt ∨ i = .rgb565ToRgb888 fmt ∨ i = .rgb565ToBgr888 fmt) →
    u.width = s.width → u.height = s.height → u.channels = s.channels → u.ibufLen = s.ibufLen →
    u.params = s.params → (∀ a, a < s.ibufLen.toNat → u.bufByte .ibuf a = s.bufByte .ibuf a) →
    ∃ t v, exec i s = .next t ∧ exec i u = .next v ∧ v.status = t.status ∧
      (t.done = true → v.obufLen = t.obufLen ∧ v.ofmt = t.ofmt ∧ ∀ a, v.obuf.read a = t.obuf.read a)

/-- No accepted command produces more output than OBUF holds (00_scope.md R4, 20_memory.md R59). -/
def Obligations.OutputFitsTheOutputBuffer : Prop :=
  ∀ (i : Instr) (fmt : PixelFormatTag) (s t : State),
    (i = .none fmt ∨ i = .swapCh0Ch2 fmt ∨ i = .rgb565ToRgb888 fmt ∨ i = .rgb565ToBgr888 fmt) →
    s.params.ok = true → exec i s = .next t → t.done = true →
    1 ≤ t.obufLen.toNat ∧ t.obufLen.toNat ≤ s.params.obufCap ∧
    (∀ a, s.params.obufCap ≤ a → t.obuf.read a = none) ∧
    (∀ a, a < t.obufLen.toNat → t.obuf.read a ≠ none)

/-! ### The checksum command -/

/-- 41_checksum.md R120 (with R121 to R126): on well-formed lengths `CHECKSUM` ends with the spec's fold over the words,
computed on natural numbers by `Spec.checksum`, and writes nothing else; on ill-formed ones it fails. -/
def Obligations.ChecksumIsTheSpecFold : Prop :=
  encode (.checksum .ibuf) = 0x00000004 ∧ encode (.checksum .obuf) = 0x00000084 ∧
  ∀ (b : Buffer) (s : State),
    ((s.bufLen b).toNat ≤ s.bufCap b → s.cklen.toNat ≤ (s.bufLen b).toNat →
      ∃ t, exec (.checksum b) s = .next t ∧ t.status = 0x00000002 ∧ t.resultDefined = true ∧
        t = { s with status := t.status, result := t.result, resultDefined := true, cks := t.cks, draws := t.draws } ∧
        t.result.toNat = Spec.checksum s.cklen.toNat (fun i => (s.bufByte b i).toNat) ∧
        t.cks.x.toNat = (Spec.peac s.cklen.toNat (fun i => (s.bufByte b i).toNat) (s.cklen.toNat / 2)).x ∧
        t.cks.y.toNat = (Spec.peac s.cklen.toNat (fun i => (s.bufByte b i).toNat) (s.cklen.toNat / 2)).y ∧
        t.cks.c.toNat = (Spec.peac s.cklen.toNat (fun i => (s.bufByte b i).toNat) (s.cklen.toNat / 2)).c) ∧
    (s.bufCap b < (s.bufLen b).toNat ∨ (s.bufLen b).toNat < s.cklen.toNat →
      exec (.checksum b) s = .next { s with status := 0x00000014 })

/-- 41_checksum.md R129: no word, no step: the checksum of zero words. -/
def Obligations.ChecksumOfZeroWords : Prop :=
  ∀ (b : Buffer) (s : State), s.cklen.toNat ≤ 1 → s.cklen.toNat ≤ (s.bufLen b).toNat →
    (s.bufLen b).toNat ≤ s.bufCap b →
    ∃ t, exec (.checksum b) s = .next t ∧ t.status = 0x00000002 ∧ t.result = 0xABCD1234

/-- The checksum is a function of the byte count and the bytes of whole words alone (41_checksum.md R130, R133): not of
`X`, `Y`, `C`, `RESULT`, the geometry registers, `OFMT`, nor of other bytes. -/
def Obligations.ChecksumDependsOnSubmittedWordsOnly : Prop :=
  ∀ (b : Buffer) (s u t v : State), u.cklen = s.cklen →
    (∀ a, a < 2 * (s.cklen.toNat / 2) → u.bufByte b a = s.bufByte b a) →
    exec (.checksum b) s = .next t → exec (.checksum b) u = .next v → t.done = true → v.done = true →
    v.result = t.result ∧ v.cks = t.cks

/-- 41_checksum.md R127: the bounds of the accumulators after any number of words. -/
def Obligations.AccumulatorBounds : Prop :=
  (∀ (len : Word) (bs : List Byte),
    (peacRun len bs).y.toNat ≤ 0x1FFFE ∧
    (2 ≤ bs.length → (peacRun len bs).c.toNat ≤ 0xFFFF ∧
      (peacRun len bs).c.toNat + (peacRun len bs).x.toNat + (peacRun len bs).y.toNat ≤ 0x3FFFC) ∧
    (4 ≤ bs.length → (peacRun len bs).c.toNat ≤ 3)) ∧
  (∀ len : Word, 2 ^ 32 ≤ (peacInit len).c.toNat + (peacInit len).x.toNat + (peacInit len).y.toNat ↔
    0xFFFF41FF ≤ len.toNat)

/-- 41_checksum.md R128: the first step of the first word wraps modulo 2^32, with the rule's three examples. -/
def Obligations.SeedWrapsInTheFirstWord : Prop :=
  (∀ (len : Word) (w : Half),
    (peacStep (peacInit len) w).x.toNat = (len.toNat + 0xBE01) % 2 ^ 32 % 2 ^ 16 ∧
    (peacStep (peacInit len) w).c.toNat = (len.toNat + 0xBE01) % 2 ^ 32 / 2 ^ 16 ∧
    (peacStep (peacInit len) w).y.toNat = 0x1234 + w.toNat) ∧
  (∀ w : Half, (peacStep (peacInit 0xFFFFFFFF) w).x = 0xBE00 ∧ (peacStep (peacInit 0xFFFFFFFF) w).c = 0) ∧
  (∀ w : Half, (peacStep (peacInit 0xFFFF41FE) w).x = 0xFFFF ∧ (peacStep (peacInit 0xFFFF41FE) w).c = 0xFFFF) ∧
  (∀ w : Half, (peacStep (peacInit 0xFFFF41FF) w).x = 0 ∧ (peacStep (peacInit 0xFFFF41FF) w).c = 0)

/-- 41_checksum.md R131: for an odd length the trailing byte is not read but the seed still differs from that of the even
length below it, so the two results are equal for length 1 and differ for every buffer at length 3. -/
def Obligations.OddLengthsKeepTheirOwnSeed : Prop :=
  (∀ (b : Buffer) (s u t v : State), s.cklen.toNat % 2 = 1 → u.cklen = s.cklen →
    (∀ a, a < s.cklen.toNat - 1 → u.bufByte b a = s.bufByte b a) →
    exec (.checksum b) s = .next t → exec (.checksum b) u = .next v → t.done = true → v.done = true →
    v.result = t.result) ∧
  (∀ (b : Buffer) (s t u : State), exec (.checksum b) { s with cklen := 1 } = .next t → t.done = true →
    exec (.checksum b) { s with cklen := 0 } = .next u → u.result = t.result ∧ t.result = 0xABCD1234) ∧
  (∀ (b : Buffer) (s t u : State), exec (.checksum b) { s with cklen := 3 } = .next t → t.done = true →
    exec (.checksum b) { s with cklen := 2 } = .next u →
    u.done = true ∧ t.result.toNat % 2 ^ 16 = 0xBE04 ∧ u.result.toNat % 2 ^ 16 = 0xBE03 ∧ t.result ≠ u.result) ∧
  (∀ (b : Buffer) (s t u : State), (∀ a, a < 4 → s.bufByte b a = 0) →
    exec (.checksum b) { s with cklen := 5 } = .next t → t.done = true →
    exec (.checksum b) { s with cklen := 4 } = .next u →
    t.result = 0xBE06D03A ∧ u.result = 0xBE05D039)

/-- The frame of `CHECKSUM` (41_checksum.md R120): only `RESULT`, `STATUS`, `X`, `Y`, `C` and the MODEL's own
`resultDefined`, `draws` may change, no byte of IBUF or OBUF does, and a failed one changes `STATUS` alone (R133). -/
def Obligations.ChecksumFrame : Prop :=
  ∀ (b : Buffer) (s t : State), exec (.checksum b) s = .next t →
    t = { s with
          status := t.status, result := t.result, resultDefined := t.resultDefined, cks := t.cks, draws := t.draws } ∧
    (∀ a, t.ibuf.read a = s.ibuf.read a) ∧ (∀ a, t.obuf.read a = s.obuf.read a) ∧
    (t.done = false → t = { s with status := t.status })

/-- After a successful `NONE`, `CHECKSUM OBUF` gives the spec's checksum of the input bytes (40_transcode.md R95,
41_checksum.md R126). -/
def Obligations.ChecksumOfACopyIsTheChecksumOfTheInput : Prop :=
  ∀ (s t : State) (fmt : PixelFormatTag) (len : Word), s.params.ok = true → exec (.none fmt) s = .next t →
    t.done = true → len.toNat ≤ s.ibufLen.toNat →
    ∃ u, exec (.checksum .obuf) { t with cklen := len } = .next u ∧ u.done = true ∧
      u.result.toNat = Spec.checksum len.toNat (fun i => (s.bufByte .ibuf i).toNat)

/-- `CHECKSUM OBUF` reads the output of the most recent successful T command, whatever steps lie between that leave it:
`CHECKSUM` commands, failed commands, host accesses other than reset (70_reset_and_hazards.md R186). -/
def Obligations.ChecksumReadsTheLastTranscoderOutput : Prop :=
  ∀ (i : Instr) (fmt : PixelFormatTag) (s t v : State),
    (i = .none fmt ∨ i = .swapCh0Ch2 fmt ∨ i = .rgb565ToRgb888 fmt ∨ i = .rgb565ToBgr888 fmt) →
    s.params.ok = true → s.blockMovesNext → decode s.lcmd = .command i → step s = .next t → t.done = true →
    OutputKept t v →
    v.obufLen = t.obufLen ∧ (∀ a, v.obuf.read a = t.obuf.read a) ∧
    (v.blockMovesNext → v.lcmd = encode (.checksum .obuf) → v.cklen.toNat ≤ t.obufLen.toNat →
      ∃ (w : State) (byte : Nat → Byte), step v = .next w ∧ w.status = 0x00000002 ∧
        (∀ a, a < t.obufLen.toNat → t.obuf.read a = some (byte a)) ∧
        w.result.toNat = Spec.checksum v.cklen.toNat (fun a => (byte a).toNat))

/-! ### Failures -/

/-- Every command that is launched ends, in a next state, with exactly one of DONE and ERR (42_host_interface.md R144). -/
def Obligations.EveryCommandEndsWithDoneOrErr : Prop :=
  ∀ s : State, s.blockMovesNext → ∃ t, step s = .next t ∧ t.busy = false ∧ (t.done = true ↔ t.err = false)

/-- 60_exceptions.md R163: `IllegalCommand` is reported for exactly the words R76 calls illegal. -/
def Obligations.IllegalCommandExactlyForIllegalWords : Prop :=
  ∀ s t : State, s.blockMovesNext → step s = .next t →
    ((t.err = true ∧ t.ecode = 3) ↔
      (s.lcmd.extractLsb' 8 24 ≠ 0 ∨ s.lcmd.getLsbD 3 = true) ∨
      5 ≤ (s.lcmd.extractLsb' 0 3).toNat ∨
      ((s.lcmd.extractLsb' 0 3).toNat ≤ 3 ∧ s.lcmd.extractLsb' 4 3 = 7) ∨
      ((s.lcmd.extractLsb' 0 3).toNat ≤ 3 ∧ s.lcmd.getLsbD 7 = true) ∨
      ((s.lcmd.extractLsb' 0 3).toNat = 4 ∧ s.lcmd.extractLsb' 4 3 ≠ 0))

/-- 60_exceptions.md R162: `UnsupportedFormat` is reported for exactly the seventeen words, with `ETAG` the declared
tag. -/
def Obligations.UnsupportedFormatExactlyForSeventeenWords : Prop :=
  ∀ s t : State, s.blockMovesNext → step s = .next t →
    ((t.err = true ∧ t.ecode = 2) ↔
      s.lcmd ∈ ([0x11, 0x31, 0x41, 0x51, 0x61, 0x02, 0x12, 0x22, 0x32, 0x42, 0x52, 0x03, 0x13, 0x23, 0x33, 0x43, 0x53] :
        List Word)) ∧
    (t.err = true → t.ecode = 2 → t.etag = s.lcmd.extractLsb' 4 3)

/-- 60_exceptions.md R161: the complete list of causes of `InvalidGeometry`. The premise on `OBUF_LEN` is an invariant
(`Inv.obufFits`). -/
def Obligations.InvalidGeometryExactlyForItsCauses : Prop :=
  ∀ (i : Instr) (s t : State), s.obufLen.toNat ≤ s.params.obufCap → exec i s = .next t →
    ((t.err = true ∧ t.ecode = 1) ↔
      formatAccepted i = true ∧
      ((∃ fmt, (i = .none fmt ∨ i = .swapCh0Ch2 fmt ∨ i = .rgb565ToRgb888 fmt ∨ i = .rgb565ToBgr888 fmt) ∧
        ((s.width = 0 ∨ s.height = 0 ∨ s.channels = 0) ∨
          s.channels.toNat ≠ stride s.params fmt ∨
          s.params.ibufCap < s.ibufLen.toNat ∨
          s.ibufLen.toNat ≠ s.height.toNat * s.width.toNat * s.channels.toNat ∨
          (i = .swapCh0Ch2 fmt ∧ s.width.toNat * s.channels.toNat % 4 ≠ 0))) ∨
      (i = .checksum .ibuf ∧ s.params.ibufCap < s.ibufLen.toNat) ∨
      (∃ b, i = .checksum b ∧ (s.bufLen b).toNat < s.cklen.toNat)))

/-- 60_exceptions.md R164: the first applying cause in the order IllegalCommand, UnsupportedFormat, InvalidGeometry is the
one reported, and the command succeeds where none applies. -/
def Obligations.FirstApplyingErrorIsReported : Prop :=
  ∀ s t : State, s.blockMovesNext → step s = .next t →
    ((∀ i, decode s.lcmd ≠ .command i) → t.status = 0x00000034) ∧
    (∀ i, decode s.lcmd = .command i → formatAccepted i = false → t.err = true ∧ t.ecode = 2) ∧
    (∀ i, decode s.lcmd = .command i → formatAccepted i = true → ¬ s.OperandChecks i → t.status = 0x00000014) ∧
    (∀ i, decode s.lcmd = .command i → formatAccepted i = true → s.OperandChecks i → t.status = 0x00000002)

/-- 60_exceptions.md R165: a failure writes `STATUS` and nothing else (the turn taken out of the schedule is the model's
own, log 9); `ETAG` is 0 unless the error is
`UnsupportedFormat`. -/
def Obligations.FailureWritesStatusAndNothingElse : Prop :=
  ∀ s t : State, s.blockMovesNext → step s = .next t → t.err = true →
    t = { s.afterBlockTurn with status := t.status } ∧ t.busy = false ∧ t.done = false ∧
    (t.ecode = 1 ∨ t.ecode = 2 ∨ t.ecode = 3) ∧ (t.ecode ≠ 2 → t.etag = 0) ∧
    (t.status = 0x00000014 ∨ t.status = 0x00000034 ∨
      ∃ fmt : PixelFormatTag, t.status = 0x00000024 ||| (fmt.code.setWidth 32 <<< 8))

/-- No failure depends on the contents of a buffer (60_exceptions.md R167): which way a command ends is a function of the
command word, the geometry registers and the length registers. -/
def Obligations.OutcomeDoesNotDependOnBufferContents : Prop :=
  ∀ s u t v : State, s.blockMovesNext → u.blockMovesNext → u.lcmd = s.lcmd → u.width = s.width →
    u.height = s.height → u.channels = s.channels → u.ibufLen = s.ibufLen → u.cklen = s.cklen →
    u.obufLen = s.obufLen → u.params = s.params → step s = .next t → step u = .next v → v.status = t.status

/-- 60_exceptions.md R166: the error record stays until the next launch or reset, a launch clears it, and launching the
same command again on the same state fails again with the same record. -/
def Obligations.ErrorRecordStaysUntilTheNextLaunch : Prop :=
  (∀ s t : State, s.busy = false → step s = .next t →
    (∀ v rest, s.host ≠ .wr 0x00 v :: rest) → (∀ rest, s.host ≠ .reset :: rest) → t.status = s.status) ∧
  (∀ (s : State) (v : Word) (rest : List HostAccess), s.busy = false → s.host = .wr 0x00 v :: rest →
    ∃ t, step s = .next t ∧ t.err = false ∧ t.ecode = 0 ∧ t.etag = 0) ∧
  (∀ (i : Instr) (s t : State), exec i s = .next t → t.err = true →
    exec i (t.launch (encode i)) = .next { t.launch (encode i) with status := t.status })

/-! ### Reset -/

/-- 10_state.md R37: the values after reset that the spec gives; what it leaves unspecified holds no defined value. -/
def Obligations.ResetGivesTheSpecifiedValues : Prop :=
  (∀ s : State, (s = State.reset ∨ ∃ p, s = State.resetOf p) →
    s.cmd = 0 ∧ s.status = 0 ∧ s.busy = false ∧ s.done = false ∧ s.err = false ∧ s.ecode = 0 ∧ s.etag = 0 ∧
    s.width = 0 ∧ s.height = 0 ∧ s.channels = 0 ∧ s.ibufLen = 0 ∧ s.cklen = 0 ∧ s.obufLen = 0 ∧
    s.ofmtDefined = false ∧ s.resultDefined = false ∧ (∀ a, s.ibuf.read a = none) ∧ ∀ a, s.obuf.read a = none)

/-- Reset at any time, also while a command is in flight, gives the specified values and abandons the command
(70_reset_and_hazards.md R180, R181); the parameters and the rest of the host's sequence stay (log 14). -/
def Obligations.ResetAbandonsTheCommandInFlight : Prop :=
  ∀ (s : State) (rest : List HostAccess), s.hostMovesNext → s.host = .reset :: rest →
    ∃ t, step s = .next t ∧ t.busy = false ∧ t.cmd = 0 ∧ t.status = 0 ∧ t.width = 0 ∧ t.height = 0 ∧ t.channels = 0 ∧
      t.ibufLen = 0 ∧ t.cklen = 0 ∧ t.obufLen = 0 ∧ t.ofmtDefined = false ∧ t.resultDefined = false ∧
      (∀ a, t.ibuf.read a = none) ∧ (∀ a, t.obuf.read a = none) ∧ t.params = s.params ∧ t.host = rest

/-- What the spec calls unspecified and unobservable has no influence (10_state.md R32, R33, U3, U12; so the values log 3
and log 4 name at reset never show): two states that differ in it alone step to two such states, or are refused alike. -/
def Obligations.HiddenStateIsNeverObserved : Prop :=
  ∀ s u : State, SameUpToHidden s u →
    (∀ t, step s = .next t → ∃ v, step u = .next v ∧ SameUpToHidden t v) ∧
    (∀ r, step s = .refused r → step u = .refused r)

/-! ### Invariants and whole-machine rules -/

/-- The invariant holds after reset, for every parameters R4 admits. -/
def Obligations.InvariantHoldsAtReset : Prop :=
  Inv State.reset ∧ ∀ p : Params, p.ok = true → Inv (State.resetOf p)

/-- Every step keeps the invariant: `STATUS` stays one R23 allows, `OFMT` a tag, the buffer memories canonical and within
their capacities, OBUF exactly the output buffer, `Y` within its bound, `LCMD` the word `CMD` shows. -/
def Obligations.StepKeepsTheInvariant : Prop :=
  ∀ s t : State, Inv s → step s = .next t → Inv t

/-- `BUSY`, `DONE` and `ERR` are all 0 only between reset and the first launch (10_state.md R23). -/
def Obligations.AllFlagsZeroOnlyBeforeTheFirstLaunch : Prop :=
  ∀ s t : State, step s = .next t → t.busy = false → t.done = false → t.err = false →
    (s.busy = false ∧ s.done = false ∧ s.err = false) ∨ (s.hostMovesNext ∧ ∃ rest, s.host = .reset :: rest)

/-- The block never writes IBUF (10_state.md R30): a step changes a byte of it only if the host writes that byte or
reset is asserted. -/
def Obligations.OnlyTheHostWritesTheInputBuffer : Prop :=
  ∀ (s t : State) (a : Nat), step s = .next t → t.ibuf.read a ≠ s.ibuf.read a →
    s.hostMovesNext ∧ ((∃ b rest, s.host = .wrIbuf a b :: rest) ∨ ∃ rest, s.host = .reset :: rest)

/-- OBUF, `OBUF_LEN`, `OFMT` are written only by a successful T command and `RESULT` only by a successful `CHECKSUM`
(10_state.md R27, R28, R29, R31), apart from reset. -/
def Obligations.ResultsAreWrittenOnlyBySuccessfulCommands : Prop :=
  ∀ s t : State, step s = .next t → ¬ (s.hostMovesNext ∧ ∃ rest, s.host = .reset :: rest) →
    (((∃ a, t.obuf.read a ≠ s.obuf.read a) ∨ t.obufLen ≠ s.obufLen ∨ t.ofmt ≠ s.ofmt) →
      s.blockMovesNext ∧ t.done = true ∧ ∃ i, decode s.lcmd = .command i ∧ ∀ b, i ≠ .checksum b) ∧
    (t.result ≠ s.result → s.blockMovesNext ∧ t.done = true ∧ ∃ b, decode s.lcmd = .command (.checksum b))

/-- Every launched command ends (42_host_interface.md R144, 70_reset_and_hazards.md R188): while the host only polls and
reads registers, the command in flight has ended after at most one step more than there are turns. -/
def Obligations.EveryLaunchedCommandEnds : Prop :=
  ∀ s : State, s.busy = true → (∀ a ∈ s.host, a.waits = true) →
    ∃ k t, k ≤ s.turns.length + 1 ∧ Host.Core.run Sys2Proof.core k s = .next t ∧ t.busy = false

/-- The parameters of the instance are no state: no step changes them (10_state.md R20). -/
def Obligations.ParametersNeverChange : Prop :=
  ∀ s t : State, step s = .next t → t.params = s.params

/-- The register map (10_state.md R21): ten registers at their offsets, and no register at any other. -/
def Obligations.RegisterMapHasTenRegisters : Prop :=
  (Reg.offset .cmd = 0x00 ∧ Reg.offset .status = 0x04 ∧ Reg.offset .width = 0x08 ∧ Reg.offset .height = 0x0C ∧
    Reg.offset .channels = 0x10 ∧ Reg.offset .ibufLen = 0x14 ∧ Reg.offset .cklen = 0x18 ∧
    Reg.offset .obufLen = 0x1C ∧ Reg.offset .ofmt = 0x20 ∧ Reg.offset .result = 0x24) ∧
  ∀ (off : Nat) (r : Reg), regAt off = some r ↔ r.offset = off
end

