-- ==== Sys2Proof/Laws/State.lean ====
section
/-! SUPPORT. One lemma per field per update of State, so that no proof unfolds a record update. -/

namespace Sys2Proof.Machine

/-! `launch` -/

@[simp] theorem launch_cmd (v : Word) (s : State) : (s.launch v).cmd = v := rfl
@[simp] theorem launch_status (v : Word) (s : State) : (s.launch v).status = statusBusy := rfl
@[simp] theorem launch_width (v : Word) (s : State) : (s.launch v).width = s.width := rfl
@[simp] theorem launch_height (v : Word) (s : State) : (s.launch v).height = s.height := rfl
@[simp] theorem launch_channels (v : Word) (s : State) : (s.launch v).channels = s.channels := rfl
@[simp] theorem launch_ibufLen (v : Word) (s : State) : (s.launch v).ibufLen = s.ibufLen := rfl
@[simp] theorem launch_cklen (v : Word) (s : State) : (s.launch v).cklen = s.cklen := rfl
@[simp] theorem launch_obufLen (v : Word) (s : State) : (s.launch v).obufLen = s.obufLen := rfl
@[simp] theorem launch_ofmt (v : Word) (s : State) : (s.launch v).ofmt = s.ofmt := rfl
@[simp] theorem launch_result (v : Word) (s : State) : (s.launch v).result = s.result := rfl
@[simp] theorem launch_ibuf (v : Word) (s : State) : (s.launch v).ibuf = s.ibuf := rfl
@[simp] theorem launch_obuf (v : Word) (s : State) : (s.launch v).obuf = s.obuf := rfl
@[simp] theorem launch_cks (v : Word) (s : State) : (s.launch v).cks = s.cks := rfl
@[simp] theorem launch_lcmd (v : Word) (s : State) : (s.launch v).lcmd = v := rfl
@[simp] theorem launch_params (v : Word) (s : State) : (s.launch v).params = s.params := rfl
@[simp] theorem launch_ofmtDefined (v : Word) (s : State) : (s.launch v).ofmtDefined = s.ofmtDefined := rfl
@[simp] theorem launch_resultDefined (v : Word) (s : State) : (s.launch v).resultDefined = s.resultDefined := rfl
@[simp] theorem launch_draws (v : Word) (s : State) : (s.launch v).draws = s.draws := rfl
@[simp] theorem launch_host (v : Word) (s : State) : (s.launch v).host = s.host := rfl
@[simp] theorem launch_turns (v : Word) (s : State) : (s.launch v).turns = s.turns := rfl
@[simp] theorem launch_rdata (v : Word) (s : State) : (s.launch v).rdata = s.rdata := rfl

/-! `fail` -/

@[simp] theorem fail_cmd (e : ErrorKind) (etag : BitVec 3) (s : State) : (s.fail e etag).cmd = s.cmd := rfl
@[simp] theorem fail_status (e : ErrorKind) (etag : BitVec 3) (s : State) : (s.fail e etag).status = statusError e etag := rfl
@[simp] theorem fail_width (e : ErrorKind) (etag : BitVec 3) (s : State) : (s.fail e etag).width = s.width := rfl
@[simp] theorem fail_height (e : ErrorKind) (etag : BitVec 3) (s : State) : (s.fail e etag).height = s.height := rfl
@[simp] theorem fail_channels (e : ErrorKind) (etag : BitVec 3) (s : State) : (s.fail e etag).channels = s.channels := rfl
@[simp] theorem fail_ibufLen (e : ErrorKind) (etag : BitVec 3) (s : State) : (s.fail e etag).ibufLen = s.ibufLen := rfl
@[simp] theorem fail_cklen (e : ErrorKind) (etag : BitVec 3) (s : State) : (s.fail e etag).cklen = s.cklen := rfl
@[simp] theorem fail_obufLen (e : ErrorKind) (etag : BitVec 3) (s : State) : (s.fail e etag).obufLen = s.obufLen := rfl
@[simp] theorem fail_ofmt (e : ErrorKind) (etag : BitVec 3) (s : State) : (s.fail e etag).ofmt = s.ofmt := rfl
@[simp] theorem fail_result (e : ErrorKind) (etag : BitVec 3) (s : State) : (s.fail e etag).result = s.result := rfl
@[simp] theorem fail_ibuf (e : ErrorKind) (etag : BitVec 3) (s : State) : (s.fail e etag).ibuf = s.ibuf := rfl
@[simp] theorem fail_obuf (e : ErrorKind) (etag : BitVec 3) (s : State) : (s.fail e etag).obuf = s.obuf := rfl
@[simp] theorem fail_cks (e : ErrorKind) (etag : BitVec 3) (s : State) : (s.fail e etag).cks = s.cks := rfl
@[simp] theorem fail_lcmd (e : ErrorKind) (etag : BitVec 3) (s : State) : (s.fail e etag).lcmd = s.lcmd := rfl
@[simp] theorem fail_params (e : ErrorKind) (etag : BitVec 3) (s : State) : (s.fail e etag).params = s.params := rfl
@[simp] theorem fail_ofmtDefined (e : ErrorKind) (etag : BitVec 3) (s : State) : (s.fail e etag).ofmtDefined = s.ofmtDefined := rfl
@[simp] theorem fail_resultDefined (e : ErrorKind) (etag : BitVec 3) (s : State) : (s.fail e etag).resultDefined = s.resultDefined := rfl
@[simp] theorem fail_draws (e : ErrorKind) (etag : BitVec 3) (s : State) : (s.fail e etag).draws = s.draws := rfl
@[simp] theorem fail_host (e : ErrorKind) (etag : BitVec 3) (s : State) : (s.fail e etag).host = s.host := rfl
@[simp] theorem fail_turns (e : ErrorKind) (etag : BitVec 3) (s : State) : (s.fail e etag).turns = s.turns := rfl
@[simp] theorem fail_rdata (e : ErrorKind) (etag : BitVec 3) (s : State) : (s.fail e etag).rdata = s.rdata := rfl

/-! `complete` -/

@[simp] theorem complete_cmd (s : State) : (s.complete).cmd = s.cmd := rfl
@[simp] theorem complete_status (s : State) : (s.complete).status = statusDone := rfl
@[simp] theorem complete_width (s : State) : (s.complete).width = s.width := rfl
@[simp] theorem complete_height (s : State) : (s.complete).height = s.height := rfl
@[simp] theorem complete_channels (s : State) : (s.complete).channels = s.channels := rfl
@[simp] theorem complete_ibufLen (s : State) : (s.complete).ibufLen = s.ibufLen := rfl
@[simp] theorem complete_cklen (s : State) : (s.complete).cklen = s.cklen := rfl
@[simp] theorem complete_obufLen (s : State) : (s.complete).obufLen = s.obufLen := rfl
@[simp] theorem complete_ofmt (s : State) : (s.complete).ofmt = s.ofmt := rfl
@[simp] theorem complete_result (s : State) : (s.complete).result = s.result := rfl
@[simp] theorem complete_ibuf (s : State) : (s.complete).ibuf = s.ibuf := rfl
@[simp] theorem complete_obuf (s : State) : (s.complete).obuf = s.obuf := rfl
@[simp] theorem complete_cks (s : State) : (s.complete).cks = s.cks := rfl
@[simp] theorem complete_lcmd (s : State) : (s.complete).lcmd = s.lcmd := rfl
@[simp] theorem complete_params (s : State) : (s.complete).params = s.params := rfl
@[simp] theorem complete_ofmtDefined (s : State) : (s.complete).ofmtDefined = s.ofmtDefined := rfl
@[simp] theorem complete_resultDefined (s : State) : (s.complete).resultDefined = s.resultDefined := rfl
@[simp] theorem complete_draws (s : State) : (s.complete).draws = s.draws + 1 := rfl
@[simp] theorem complete_host (s : State) : (s.complete).host = s.host := rfl
@[simp] theorem complete_turns (s : State) : (s.complete).turns = s.turns := rfl
@[simp] theorem complete_rdata (s : State) : (s.complete).rdata = s.rdata := rfl

/-! `storeOutput` -/

@[simp] theorem storeOutput_cmd (out : List Byte) (tag : PixelFormatTag) (s : State) : (s.storeOutput out tag).cmd = s.cmd := rfl
@[simp] theorem storeOutput_status (out : List Byte) (tag : PixelFormatTag) (s : State) : (s.storeOutput out tag).status = s.status := rfl
@[simp] theorem storeOutput_width (out : List Byte) (tag : PixelFormatTag) (s : State) : (s.storeOutput out tag).width = s.width := rfl
@[simp] theorem storeOutput_height (out : List Byte) (tag : PixelFormatTag) (s : State) : (s.storeOutput out tag).height = s.height := rfl
@[simp] theorem storeOutput_channels (out : List Byte) (tag : PixelFormatTag) (s : State) : (s.storeOutput out tag).channels = s.channels := rfl
@[simp] theorem storeOutput_ibufLen (out : List Byte) (tag : PixelFormatTag) (s : State) : (s.storeOutput out tag).ibufLen = s.ibufLen := rfl
@[simp] theorem storeOutput_cklen (out : List Byte) (tag : PixelFormatTag) (s : State) : (s.storeOutput out tag).cklen = s.cklen := rfl
@[simp] theorem storeOutput_obufLen (out : List Byte) (tag : PixelFormatTag) (s : State) : (s.storeOutput out tag).obufLen = BitVec.ofNat 32 out.length := rfl
@[simp] theorem storeOutput_ofmt (out : List Byte) (tag : PixelFormatTag) (s : State) : (s.storeOutput out tag).ofmt = tag.code.setWidth 32 := rfl
@[simp] theorem storeOutput_result (out : List Byte) (tag : PixelFormatTag) (s : State) : (s.storeOutput out tag).result = s.result := rfl
@[simp] theorem storeOutput_ibuf (out : List Byte) (tag : PixelFormatTag) (s : State) : (s.storeOutput out tag).ibuf = s.ibuf := rfl
@[simp] theorem storeOutput_obuf (out : List Byte) (tag : PixelFormatTag) (s : State) : (s.storeOutput out tag).obuf = Memory.ofBytes out := rfl
@[simp] theorem storeOutput_cks (out : List Byte) (tag : PixelFormatTag) (s : State) : (s.storeOutput out tag).cks = s.cks := rfl
@[simp] theorem storeOutput_lcmd (out : List Byte) (tag : PixelFormatTag) (s : State) : (s.storeOutput out tag).lcmd = s.lcmd := rfl
@[simp] theorem storeOutput_params (out : List Byte) (tag : PixelFormatTag) (s : State) : (s.storeOutput out tag).params = s.params := rfl
@[simp] theorem storeOutput_ofmtDefined (out : List Byte) (tag : PixelFormatTag) (s : State) : (s.storeOutput out tag).ofmtDefined = true := rfl
@[simp] theorem storeOutput_resultDefined (out : List Byte) (tag : PixelFormatTag) (s : State) : (s.storeOutput out tag).resultDefined = s.resultDefined := rfl
@[simp] theorem storeOutput_draws (out : List Byte) (tag : PixelFormatTag) (s : State) : (s.storeOutput out tag).draws = s.draws := rfl
@[simp] theorem storeOutput_host (out : List Byte) (tag : PixelFormatTag) (s : State) : (s.storeOutput out tag).host = s.host := rfl
@[simp] theorem storeOutput_turns (out : List Byte) (tag : PixelFormatTag) (s : State) : (s.storeOutput out tag).turns = s.turns := rfl
@[simp] theorem storeOutput_rdata (out : List Byte) (tag : PixelFormatTag) (s : State) : (s.storeOutput out tag).rdata = s.rdata := rfl

/-! `storeResult` -/

@[simp] theorem storeResult_cmd (v : Word) (c : ChecksumState) (s : State) : (s.storeResult v c).cmd = s.cmd := rfl
@[simp] theorem storeResult_status (v : Word) (c : ChecksumState) (s : State) : (s.storeResult v c).status = s.status := rfl
@[simp] theorem storeResult_width (v : Word) (c : ChecksumState) (s : State) : (s.storeResult v c).width = s.width := rfl
@[simp] theorem storeResult_height (v : Word) (c : ChecksumState) (s : State) : (s.storeResult v c).height = s.height := rfl
@[simp] theorem storeResult_channels (v : Word) (c : ChecksumState) (s : State) : (s.storeResult v c).channels = s.channels := rfl
@[simp] theorem storeResult_ibufLen (v : Word) (c : ChecksumState) (s : State) : (s.storeResult v c).ibufLen = s.ibufLen := rfl
@[simp] theorem storeResult_cklen (v : Word) (c : ChecksumState) (s : State) : (s.storeResult v c).cklen = s.cklen := rfl
@[simp] theorem storeResult_obufLen (v : Word) (c : ChecksumState) (s : State) : (s.storeResult v c).obufLen = s.obufLen := rfl
@[simp] theorem storeResult_ofmt (v : Word) (c : ChecksumState) (s : State) : (s.storeResult v c).ofmt = s.ofmt := rfl
@[simp] theorem storeResult_result (v : Word) (c : ChecksumState) (s : State) : (s.storeResult v c).result = v := rfl
@[simp] theorem storeResult_ibuf (v : Word) (c : ChecksumState) (s : State) : (s.storeResult v c).ibuf = s.ibuf := rfl
@[simp] theorem storeResult_obuf (v : Word) (c : ChecksumState) (s : State) : (s.storeResult v c).obuf = s.obuf := rfl
@[simp] theorem storeResult_cks (v : Word) (c : ChecksumState) (s : State) : (s.storeResult v c).cks = c := rfl
@[simp] theorem storeResult_lcmd (v : Word) (c : ChecksumState) (s : State) : (s.storeResult v c).lcmd = s.lcmd := rfl
@[simp] theorem storeResult_params (v : Word) (c : ChecksumState) (s : State) : (s.storeResult v c).params = s.params := rfl
@[simp] theorem storeResult_ofmtDefined (v : Word) (c : ChecksumState) (s : State) : (s.storeResult v c).ofmtDefined = s.ofmtDefined := rfl
@[simp] theorem storeResult_resultDefined (v : Word) (c : ChecksumState) (s : State) : (s.storeResult v c).resultDefined = true := rfl
@[simp] theorem storeResult_draws (v : Word) (c : ChecksumState) (s : State) : (s.storeResult v c).draws = s.draws := rfl
@[simp] theorem storeResult_host (v : Word) (c : ChecksumState) (s : State) : (s.storeResult v c).host = s.host := rfl
@[simp] theorem storeResult_turns (v : Word) (c : ChecksumState) (s : State) : (s.storeResult v c).turns = s.turns := rfl
@[simp] theorem storeResult_rdata (v : Word) (c : ChecksumState) (s : State) : (s.storeResult v c).rdata = s.rdata := rfl

/-! `returnValue` -/

@[simp] theorem returnValue_cmd (v : Word) (s : State) : (s.returnValue v).cmd = s.cmd := rfl
@[simp] theorem returnValue_status (v : Word) (s : State) : (s.returnValue v).status = s.status := rfl
@[simp] theorem returnValue_width (v : Word) (s : State) : (s.returnValue v).width = s.width := rfl
@[simp] theorem returnValue_height (v : Word) (s : State) : (s.returnValue v).height = s.height := rfl
@[simp] theorem returnValue_channels (v : Word) (s : State) : (s.returnValue v).channels = s.channels := rfl
@[simp] theorem returnValue_ibufLen (v : Word) (s : State) : (s.returnValue v).ibufLen = s.ibufLen := rfl
@[simp] theorem returnValue_cklen (v : Word) (s : State) : (s.returnValue v).cklen = s.cklen := rfl
@[simp] theorem returnValue_obufLen (v : Word) (s : State) : (s.returnValue v).obufLen = s.obufLen := rfl
@[simp] theorem returnValue_ofmt (v : Word) (s : State) : (s.returnValue v).ofmt = s.ofmt := rfl
@[simp] theorem returnValue_result (v : Word) (s : State) : (s.returnValue v).result = s.result := rfl
@[simp] theorem returnValue_ibuf (v : Word) (s : State) : (s.returnValue v).ibuf = s.ibuf := rfl
@[simp] theorem returnValue_obuf (v : Word) (s : State) : (s.returnValue v).obuf = s.obuf := rfl
@[simp] theorem returnValue_cks (v : Word) (s : State) : (s.returnValue v).cks = s.cks := rfl
@[simp] theorem returnValue_lcmd (v : Word) (s : State) : (s.returnValue v).lcmd = s.lcmd := rfl
@[simp] theorem returnValue_params (v : Word) (s : State) : (s.returnValue v).params = s.params := rfl
@[simp] theorem returnValue_ofmtDefined (v : Word) (s : State) : (s.returnValue v).ofmtDefined = s.ofmtDefined := rfl
@[simp] theorem returnValue_resultDefined (v : Word) (s : State) : (s.returnValue v).resultDefined = s.resultDefined := rfl
@[simp] theorem returnValue_draws (v : Word) (s : State) : (s.returnValue v).draws = s.draws := rfl
@[simp] theorem returnValue_host (v : Word) (s : State) : (s.returnValue v).host = s.host := rfl
@[simp] theorem returnValue_turns (v : Word) (s : State) : (s.returnValue v).turns = s.turns := rfl
@[simp] theorem returnValue_rdata (v : Word) (s : State) : (s.returnValue v).rdata = v := rfl

/-! `returnFreeWord` -/

@[simp] theorem returnFreeWord_cmd (s : State) : (s.returnFreeWord).cmd = s.cmd := rfl
@[simp] theorem returnFreeWord_status (s : State) : (s.returnFreeWord).status = s.status := rfl
@[simp] theorem returnFreeWord_width (s : State) : (s.returnFreeWord).width = s.width := rfl
@[simp] theorem returnFreeWord_height (s : State) : (s.returnFreeWord).height = s.height := rfl
@[simp] theorem returnFreeWord_channels (s : State) : (s.returnFreeWord).channels = s.channels := rfl
@[simp] theorem returnFreeWord_ibufLen (s : State) : (s.returnFreeWord).ibufLen = s.ibufLen := rfl
@[simp] theorem returnFreeWord_cklen (s : State) : (s.returnFreeWord).cklen = s.cklen := rfl
@[simp] theorem returnFreeWord_obufLen (s : State) : (s.returnFreeWord).obufLen = s.obufLen := rfl
@[simp] theorem returnFreeWord_ofmt (s : State) : (s.returnFreeWord).ofmt = s.ofmt := rfl
@[simp] theorem returnFreeWord_result (s : State) : (s.returnFreeWord).result = s.result := rfl
@[simp] theorem returnFreeWord_ibuf (s : State) : (s.returnFreeWord).ibuf = s.ibuf := rfl
@[simp] theorem returnFreeWord_obuf (s : State) : (s.returnFreeWord).obuf = s.obuf := rfl
@[simp] theorem returnFreeWord_cks (s : State) : (s.returnFreeWord).cks = s.cks := rfl
@[simp] theorem returnFreeWord_lcmd (s : State) : (s.returnFreeWord).lcmd = s.lcmd := rfl
@[simp] theorem returnFreeWord_params (s : State) : (s.returnFreeWord).params = s.params := rfl
@[simp] theorem returnFreeWord_ofmtDefined (s : State) : (s.returnFreeWord).ofmtDefined = s.ofmtDefined := rfl
@[simp] theorem returnFreeWord_resultDefined (s : State) : (s.returnFreeWord).resultDefined = s.resultDefined := rfl
@[simp] theorem returnFreeWord_draws (s : State) : (s.returnFreeWord).draws = s.draws + 1 := rfl
@[simp] theorem returnFreeWord_host (s : State) : (s.returnFreeWord).host = s.host := rfl
@[simp] theorem returnFreeWord_turns (s : State) : (s.returnFreeWord).turns = s.turns := rfl
@[simp] theorem returnFreeWord_rdata (s : State) : (s.returnFreeWord).rdata = Config.freeWord s.draws := rfl

/-! `returnFreeByte` -/

@[simp] theorem returnFreeByte_cmd (i : Nat) (s : State) : (s.returnFreeByte i).cmd = s.cmd := rfl
@[simp] theorem returnFreeByte_status (i : Nat) (s : State) : (s.returnFreeByte i).status = s.status := rfl
@[simp] theorem returnFreeByte_width (i : Nat) (s : State) : (s.returnFreeByte i).width = s.width := rfl
@[simp] theorem returnFreeByte_height (i : Nat) (s : State) : (s.returnFreeByte i).height = s.height := rfl
@[simp] theorem returnFreeByte_channels (i : Nat) (s : State) : (s.returnFreeByte i).channels = s.channels := rfl
@[simp] theorem returnFreeByte_ibufLen (i : Nat) (s : State) : (s.returnFreeByte i).ibufLen = s.ibufLen := rfl
@[simp] theorem returnFreeByte_cklen (i : Nat) (s : State) : (s.returnFreeByte i).cklen = s.cklen := rfl
@[simp] theorem returnFreeByte_obufLen (i : Nat) (s : State) : (s.returnFreeByte i).obufLen = s.obufLen := rfl
@[simp] theorem returnFreeByte_ofmt (i : Nat) (s : State) : (s.returnFreeByte i).ofmt = s.ofmt := rfl
@[simp] theorem returnFreeByte_result (i : Nat) (s : State) : (s.returnFreeByte i).result = s.result := rfl
@[simp] theorem returnFreeByte_ibuf (i : Nat) (s : State) : (s.returnFreeByte i).ibuf = s.ibuf := rfl
@[simp] theorem returnFreeByte_obuf (i : Nat) (s : State) : (s.returnFreeByte i).obuf = s.obuf := rfl
@[simp] theorem returnFreeByte_cks (i : Nat) (s : State) : (s.returnFreeByte i).cks = s.cks := rfl
@[simp] theorem returnFreeByte_lcmd (i : Nat) (s : State) : (s.returnFreeByte i).lcmd = s.lcmd := rfl
@[simp] theorem returnFreeByte_params (i : Nat) (s : State) : (s.returnFreeByte i).params = s.params := rfl
@[simp] theorem returnFreeByte_ofmtDefined (i : Nat) (s : State) : (s.returnFreeByte i).ofmtDefined = s.ofmtDefined := rfl
@[simp] theorem returnFreeByte_resultDefined (i : Nat) (s : State) : (s.returnFreeByte i).resultDefined = s.resultDefined := rfl
@[simp] theorem returnFreeByte_draws (i : Nat) (s : State) : (s.returnFreeByte i).draws = s.draws + 1 := rfl
@[simp] theorem returnFreeByte_host (i : Nat) (s : State) : (s.returnFreeByte i).host = s.host := rfl
@[simp] theorem returnFreeByte_turns (i : Nat) (s : State) : (s.returnFreeByte i).turns = s.turns := rfl
@[simp] theorem returnFreeByte_rdata (i : Nat) (s : State) : (s.returnFreeByte i).rdata = (Config.freeByte s.draws i).setWidth 32 := rfl

/-! `assertReset` -/

@[simp] theorem assertReset_cmd (s : State) : s.assertReset.cmd = 0 := rfl
@[simp] theorem assertReset_status (s : State) : s.assertReset.status = 0 := rfl
@[simp] theorem assertReset_width (s : State) : s.assertReset.width = 0 := rfl
@[simp] theorem assertReset_height (s : State) : s.assertReset.height = 0 := rfl
@[simp] theorem assertReset_channels (s : State) : s.assertReset.channels = 0 := rfl
@[simp] theorem assertReset_ibufLen (s : State) : s.assertReset.ibufLen = 0 := rfl
@[simp] theorem assertReset_cklen (s : State) : s.assertReset.cklen = 0 := rfl
@[simp] theorem assertReset_obufLen (s : State) : s.assertReset.obufLen = 0 := rfl
@[simp] theorem assertReset_ofmt (s : State) : s.assertReset.ofmt = 0 := rfl
@[simp] theorem assertReset_result (s : State) : s.assertReset.result = 0 := rfl
@[simp] theorem assertReset_ibuf (s : State) : s.assertReset.ibuf = [] := rfl
@[simp] theorem assertReset_obuf (s : State) : s.assertReset.obuf = [] := rfl
@[simp] theorem assertReset_cks (s : State) : s.assertReset.cks = ⟨0, 0, 0⟩ := rfl
@[simp] theorem assertReset_lcmd (s : State) : s.assertReset.lcmd = 0 := rfl
@[simp] theorem assertReset_params (s : State) : s.assertReset.params = s.params := rfl
@[simp] theorem assertReset_ofmtDefined (s : State) : s.assertReset.ofmtDefined = false := rfl
@[simp] theorem assertReset_resultDefined (s : State) : s.assertReset.resultDefined = false := rfl
@[simp] theorem assertReset_draws (s : State) : s.assertReset.draws = s.draws := rfl
@[simp] theorem assertReset_host (s : State) : s.assertReset.host = s.host := rfl
@[simp] theorem assertReset_turns (s : State) : s.assertReset.turns = s.turns := rfl
@[simp] theorem assertReset_rdata (s : State) : s.assertReset.rdata = s.rdata := rfl

/-! `afterBlockTurn` -/

@[simp] theorem afterBlockTurn_cmd (s : State) : s.afterBlockTurn.cmd = s.cmd := rfl
@[simp] theorem afterBlockTurn_status (s : State) : s.afterBlockTurn.status = s.status := rfl
@[simp] theorem afterBlockTurn_width (s : State) : s.afterBlockTurn.width = s.width := rfl
@[simp] theorem afterBlockTurn_height (s : State) : s.afterBlockTurn.height = s.height := rfl
@[simp] theorem afterBlockTurn_channels (s : State) : s.afterBlockTurn.channels = s.channels := rfl
@[simp] theorem afterBlockTurn_ibufLen (s : State) : s.afterBlockTurn.ibufLen = s.ibufLen := rfl
@[simp] theorem afterBlockTurn_cklen (s : State) : s.afterBlockTurn.cklen = s.cklen := rfl
@[simp] theorem afterBlockTurn_obufLen (s : State) : s.afterBlockTurn.obufLen = s.obufLen := rfl
@[simp] theorem afterBlockTurn_ofmt (s : State) : s.afterBlockTurn.ofmt = s.ofmt := rfl
@[simp] theorem afterBlockTurn_result (s : State) : s.afterBlockTurn.result = s.result := rfl
@[simp] theorem afterBlockTurn_ibuf (s : State) : s.afterBlockTurn.ibuf = s.ibuf := rfl
@[simp] theorem afterBlockTurn_obuf (s : State) : s.afterBlockTurn.obuf = s.obuf := rfl
@[simp] theorem afterBlockTurn_cks (s : State) : s.afterBlockTurn.cks = s.cks := rfl
@[simp] theorem afterBlockTurn_lcmd (s : State) : s.afterBlockTurn.lcmd = s.lcmd := rfl
@[simp] theorem afterBlockTurn_params (s : State) : s.afterBlockTurn.params = s.params := rfl
@[simp] theorem afterBlockTurn_ofmtDefined (s : State) : s.afterBlockTurn.ofmtDefined = s.ofmtDefined := rfl
@[simp] theorem afterBlockTurn_resultDefined (s : State) : s.afterBlockTurn.resultDefined = s.resultDefined := rfl
@[simp] theorem afterBlockTurn_draws (s : State) : s.afterBlockTurn.draws = s.draws := rfl
@[simp] theorem afterBlockTurn_host (s : State) : s.afterBlockTurn.host = s.host := rfl
@[simp] theorem afterBlockTurn_turns (s : State) : s.afterBlockTurn.turns = s.turns.tail := rfl
@[simp] theorem afterBlockTurn_rdata (s : State) : s.afterBlockTurn.rdata = s.rdata := rfl

/-! `afterHostTurn` -/

@[simp] theorem afterHostTurn_cmd (s : State) : s.afterHostTurn.cmd = s.cmd := by
  unfold State.afterHostTurn; split <;> rfl
@[simp] theorem afterHostTurn_status (s : State) : s.afterHostTurn.status = s.status := by
  unfold State.afterHostTurn; split <;> rfl
@[simp] theorem afterHostTurn_width (s : State) : s.afterHostTurn.width = s.width := by
  unfold State.afterHostTurn; split <;> rfl
@[simp] theorem afterHostTurn_height (s : State) : s.afterHostTurn.height = s.height := by
  unfold State.afterHostTurn; split <;> rfl
@[simp] theorem afterHostTurn_channels (s : State) : s.afterHostTurn.channels = s.channels := by
  unfold State.afterHostTurn; split <;> rfl
@[simp] theorem afterHostTurn_ibufLen (s : State) : s.afterHostTurn.ibufLen = s.ibufLen := by
  unfold State.afterHostTurn; split <;> rfl
@[simp] theorem afterHostTurn_cklen (s : State) : s.afterHostTurn.cklen = s.cklen := by
  unfold State.afterHostTurn; split <;> rfl
@[simp] theorem afterHostTurn_obufLen (s : State) : s.afterHostTurn.obufLen = s.obufLen := by
  unfold State.afterHostTurn; split <;> rfl
@[simp] theorem afterHostTurn_ofmt (s : State) : s.afterHostTurn.ofmt = s.ofmt := by
  unfold State.afterHostTurn; split <;> rfl
@[simp] theorem afterHostTurn_result (s : State) : s.afterHostTurn.result = s.result := by
  unfold State.afterHostTurn; split <;> rfl
@[simp] theorem afterHostTurn_ibuf (s : State) : s.afterHostTurn.ibuf = s.ibuf := by
  unfold State.afterHostTurn; split <;> rfl
@[simp] theorem afterHostTurn_obuf (s : State) : s.afterHostTurn.obuf = s.obuf := by
  unfold State.afterHostTurn; split <;> rfl
@[simp] theorem afterHostTurn_cks (s : State) : s.afterHostTurn.cks = s.cks := by
  unfold State.afterHostTurn; split <;> rfl
@[simp] theorem afterHostTurn_lcmd (s : State) : s.afterHostTurn.lcmd = s.lcmd := by
  unfold State.afterHostTurn; split <;> rfl
@[simp] theorem afterHostTurn_params (s : State) : s.afterHostTurn.params = s.params := by
  unfold State.afterHostTurn; split <;> rfl
@[simp] theorem afterHostTurn_ofmtDefined (s : State) : s.afterHostTurn.ofmtDefined = s.ofmtDefined := by
  unfold State.afterHostTurn; split <;> rfl
@[simp] theorem afterHostTurn_resultDefined (s : State) : s.afterHostTurn.resultDefined = s.resultDefined := by
  unfold State.afterHostTurn; split <;> rfl
@[simp] theorem afterHostTurn_draws (s : State) : s.afterHostTurn.draws = s.draws := by
  unfold State.afterHostTurn; split <;> rfl
@[simp] theorem afterHostTurn_rdata (s : State) : s.afterHostTurn.rdata = s.rdata := by
  unfold State.afterHostTurn; split <;> rfl
@[simp] theorem afterHostTurn_host (s : State) : s.afterHostTurn.host = s.host.tail := by
  unfold State.afterHostTurn; split <;> rfl

end Sys2Proof.Machine
end

