-- ==== Sys2Proof/Laws/Memory.lean ====
section
/-! SUPPORT. The laws of buffer memories: read after write, the canonical form, and what a block of bytes reads as. -/

namespace Sys2Proof.Machine

theorem Memory.read_write_same (m : Memory) (i : Nat) (v : Byte) : (Memory.write m i v).read i = some v := by
  induction m with
  | nil => simp [Memory.write, Memory.read]
  | cons p m ih =>
    obtain ⟨a, b⟩ := p
    by_cases h1 : i < a
    · simp [Memory.write, h1, Memory.read]
    · by_cases h2 : i = a
      · simp [Memory.write, h2, Memory.read]
      · simp [Memory.write, h1, h2, Memory.read, ih]

theorem Memory.read_write_other (m : Memory) {i j : Nat} (v : Byte) (h : j ≠ i) :
    (Memory.write m i v).read j = m.read j := by
  induction m with
  | nil => simp [Memory.write, Memory.read, h]
  | cons p m ih =>
    obtain ⟨a, b⟩ := p
    by_cases h1 : i < a
    · simp [Memory.write, h1, Memory.read, h]
    · by_cases h2 : i = a
      · subst h2; simp [Memory.write, Memory.read, h]
      · simp [Memory.write, h1, h2, Memory.read, ih]

/-- The canonical form of a nonempty memory: the head lies below every other entry, and the rest is canonical. -/
theorem Memory.wf_cons (p : Host.Cell) (m : Memory) :
    Memory.wf (p :: m) = true ↔ (∀ q ∈ m, p.1 < q.1) ∧ Memory.wf m = true := by
  induction m generalizing p with
  | nil => simp [Memory.wf]
  | cons q m ih =>
    simp only [Memory.wf, Bool.and_eq_true, decide_eq_true_eq, List.mem_cons, forall_eq_or_imp]
    constructor
    · rintro ⟨hpq, hq⟩
      exact ⟨⟨hpq, fun r hr => hpq.trans (((ih q).1 hq).1 r hr)⟩, hq⟩
    · rintro ⟨⟨hpq, _⟩, hq⟩
      exact ⟨hpq, hq⟩

theorem Memory.mem_write {m : Memory} {i : Nat} {v : Byte} {q : Host.Cell} (h : q ∈ Memory.write m i v) :
    q = (i, v) ∨ q ∈ m := by
  induction m with
  | nil => simpa [Memory.write] using h
  | cons p m ih =>
    obtain ⟨a, b⟩ := p
    by_cases h1 : i < a
    · simpa [Memory.write, h1] using h
    · by_cases h2 : i = a
      · subst h2
        simp only [Memory.write, lt_irrefl, if_true, if_false, List.mem_cons] at h ⊢
        tauto
      · simp only [Memory.write, h1, h2, if_false, List.mem_cons] at h ⊢
        rcases h with h | h
        · exact .inr (.inl h)
        · rcases ih h with h | h <;> tauto

/-- A write keeps the canonical form. -/
theorem Memory.write_wf {m : Memory} (h : m.wf = true) (i : Nat) (v : Byte) : (Memory.write m i v).wf = true := by
  induction m with
  | nil => rfl
  | cons p m ih =>
    obtain ⟨a, b⟩ := p
    have hm := (Memory.wf_cons _ _).1 h
    by_cases h1 : i < a
    · simp only [Memory.write, h1, if_true]
      refine (Memory.wf_cons _ _).2 ⟨?_, h⟩
      intro q hq
      rcases List.mem_cons.1 hq with rfl | hq
      · exact h1
      · exact h1.trans (hm.1 q hq)
    · by_cases h2 : i = a
      · simp only [Memory.write, h2, lt_irrefl, if_true, if_false]
        exact (Memory.wf_cons _ _).2 ⟨hm.1, hm.2⟩
      · simp only [Memory.write, h1, h2, if_false]
        refine (Memory.wf_cons _ _).2 ⟨?_, ih hm.2⟩
        intro q hq
        rcases Memory.mem_write hq with rfl | hq
        · simp only; omega
        · exact hm.1 q hq

theorem Memory.read_ofBytesAt (bs : List Byte) (k i : Nat) :
    (Memory.ofBytesAt k bs).read i = if k ≤ i then bs[i - k]? else none := by
  induction bs generalizing k with
  | nil => simp [Memory.ofBytesAt, Memory.read]
  | cons b bs ih =>
    simp only [Memory.ofBytesAt, Memory.read, ih]
    rcases Nat.lt_trichotomy i k with h | h | h
    · rw [if_neg (by omega), if_neg (by omega), if_neg (by omega)]
    · subst h; simp
    · rw [if_neg (by omega), if_pos (by omega), if_pos (by omega)]
      obtain ⟨d, rfl⟩ : ∃ d, i = k + 1 + d := ⟨i - (k + 1), by omega⟩
      rw [show k + 1 + d - (k + 1) = d by omega, show k + 1 + d - k = d + 1 by omega]
      rfl

/-- What the memory of a block of bytes reads as. -/
theorem Memory.read_ofBytes (bs : List Byte) (i : Nat) : (Memory.ofBytes bs).read i = bs[i]? := by
  simp [Memory.ofBytes, Memory.read_ofBytesAt]

theorem Memory.ofBytesAt_mem {bs : List Byte} {k : Nat} {q : Host.Cell} (h : q ∈ Memory.ofBytesAt k bs) : k ≤ q.1 := by
  induction bs generalizing k with
  | nil => simp [Memory.ofBytesAt] at h
  | cons b bs ih =>
    rcases List.mem_cons.1 h with rfl | h
    · exact le_rfl
    · exact (Nat.le_succ k).trans (ih h)

theorem Memory.ofBytesAt_wf (bs : List Byte) (k : Nat) : (Memory.ofBytesAt k bs).wf = true := by
  induction bs generalizing k with
  | nil => rfl
  | cons b bs ih => exact (Memory.wf_cons _ _).2 ⟨fun q hq => Memory.ofBytesAt_mem hq, ih (k + 1)⟩

/-- A block of bytes is in the canonical form. -/
theorem Memory.ofBytes_wf (bs : List Byte) : (Memory.ofBytes bs).wf = true := Memory.ofBytesAt_wf bs 0

/-- An entry of a canonical memory is what its offset reads as. -/
theorem Memory.read_of_mem {m : Memory} (h : m.wf = true) {q : Host.Cell} (hq : q ∈ m) : m.read q.1 = some q.2 := by
  induction m with
  | nil => simp at hq
  | cons p m ih =>
    obtain ⟨a, b⟩ := p
    have hm := (Memory.wf_cons _ _).1 h
    rcases List.mem_cons.1 hq with rfl | hq
    · simp [Memory.read]
    · have := hm.1 q hq
      simp only [Memory.read]
      rw [if_neg (by simp only at this; omega)]
      exact ih hm.2 hq

theorem Memory.mem_of_read {m : Memory} {i : Nat} {v : Byte} (h : m.read i = some v) : (i, v) ∈ m := by
  induction m with
  | nil => simp [Memory.read] at h
  | cons p m ih =>
    obtain ⟨a, b⟩ := p
    by_cases h1 : i = a
    · subst h1
      simp only [Memory.read, if_true, Option.some.injEq] at h
      subst h
      exact List.mem_cons_self
    · simp only [Memory.read, h1, if_false] at h
      exact List.mem_cons_of_mem _ (ih h)

theorem State.bytesAt_length (s : State) (b : Buffer) (i n : Nat) : (s.bytesAt b i n).length = n := by
  induction n generalizing i with
  | zero => rfl
  | succ n ih => simp [State.bytesAt, ih]

theorem State.bytesAt_getElem? (s : State) (b : Buffer) (i n k : Nat) :
    (s.bytesAt b i n)[k]? = if k < n then some (s.bufByte b (i + k)) else none := by
  induction n generalizing i k with
  | zero => simp [State.bytesAt]
  | succ n ih =>
    cases k with
    | zero => simp [State.bytesAt]
    | succ k => simp [State.bytesAt, ih, Nat.add_assoc, Nat.add_comm 1 k]

/-- The bytes a command reads depend on the buffer memory and the draw number alone. -/
theorem State.bytesAt_congr {s t : State} {b : Buffer} {i n : Nat}
    (h : ∀ k, i ≤ k → k < i + n → s.bufByte b k = t.bufByte b k) : s.bytesAt b i n = t.bytesAt b i n := by
  induction n generalizing i with
  | zero => rfl
  | succ n ih =>
    simp only [State.bytesAt]
    rw [h i le_rfl (by omega), ih fun k h1 h2 => h k (by omega) (by omega)]

@[simp] theorem State.inputBytes_length (s : State) : s.inputBytes.length = s.ibufLen.toNat :=
  s.bytesAt_length _ _ _

theorem State.inputBytes_getElem? (s : State) (k : Nat) :
    s.inputBytes[k]? = if k < s.ibufLen.toNat then some (s.bufByte .ibuf k) else none := by
  simp [State.inputBytes, State.bytesAt_getElem?]

end Sys2Proof.Machine
end

