-- ==== Sys2Proof/Laws/Status.lean ====
section
/-! SUPPORT. What the fields of `STATUS` are after each of the three ways the block writes it (10_state.md R23). -/

namespace Sys2Proof.Machine

theorem statusBusy_eq : statusBusy = 0x1 := by decide
theorem statusDone_eq : statusDone = 0x2 := by decide
theorem statusError_geometry : statusError .invalidGeometry 0 = 0x14 := by decide
theorem statusError_illegal : statusError .illegalCommand 0 = 0x34 := by decide
theorem statusError_format (fmt : PixelFormatTag) :
    statusError .unsupportedFormat fmt.code = 0x24 ||| (fmt.code.setWidth 32 <<< 8) := by
  cases fmt <;> decide

/-- The fields of a failed command's `STATUS`. -/
theorem statusError_fields (e : ErrorKind) (g : BitVec 3) :
    (statusError e g).getLsbD 0 = false ∧ (statusError e g).getLsbD 1 = false ∧ (statusError e g).getLsbD 2 = true ∧
      (statusError e g).extractLsb' 4 2 = e.code ∧ (statusError e g).extractLsb' 8 3 = g ∧
      (statusError e g).extractLsb' 3 1 = 0 ∧ (statusError e g).extractLsb' 6 2 = 0 ∧
      (statusError e g).extractLsb' 11 21 = 0 := by
  cases e <;> (revert g; decide)

@[simp] theorem launch_busy (v : Word) (s : State) : (s.launch v).busy = true := by
  simp only [State.busy, launch_status]; decide
@[simp] theorem complete_busy (s : State) : s.complete.busy = false := by
  simp only [State.busy, complete_status]; decide
@[simp] theorem complete_done (s : State) : s.complete.done = true := by
  simp only [State.done, complete_status]; decide
@[simp] theorem complete_err (s : State) : s.complete.err = false := by
  simp only [State.err, complete_status]; decide
@[simp] theorem complete_ecode (s : State) : s.complete.ecode = 0 := by
  simp only [State.ecode, complete_status]; decide
@[simp] theorem fail_busy (e : ErrorKind) (g : BitVec 3) (s : State) : (s.fail e g).busy = false :=
  (statusError_fields e g).1
@[simp] theorem fail_done (e : ErrorKind) (g : BitVec 3) (s : State) : (s.fail e g).done = false :=
  (statusError_fields e g).2.1
@[simp] theorem fail_err (e : ErrorKind) (g : BitVec 3) (s : State) : (s.fail e g).err = true :=
  (statusError_fields e g).2.2.1
@[simp] theorem fail_ecode (e : ErrorKind) (g : BitVec 3) (s : State) : (s.fail e g).ecode = e.code :=
  (statusError_fields e g).2.2.2.1
@[simp] theorem fail_etag (e : ErrorKind) (g : BitVec 3) (s : State) : (s.fail e g).etag = g :=
  (statusError_fields e g).2.2.2.2.1

theorem statusInv_of_eq {s t : State} (h : StatusInv s) (e : t.status = s.status) : StatusInv t := by
  obtain ⟨h1, h2, h3, h4, h5, h6⟩ := h
  constructor <;>
    simp only [State.busy, State.done, State.err, State.ecode, State.etag, e] at * <;> assumption

theorem launch_statusInv (v : Word) (s : State) : StatusInv (s.launch v) := by
  constructor <;>
    simp only [State.busy, State.done, State.err, State.ecode, State.etag, launch_status] <;> decide

theorem complete_statusInv (s : State) : StatusInv s.complete := by
  constructor <;>
    simp only [State.busy, State.done, State.err, State.ecode, State.etag, complete_status] <;> decide

theorem fail_statusInv {e : ErrorKind} {g : BitVec 3} (h : g ≠ 0 → e = .unsupportedFormat) (s : State) :
    StatusInv (s.fail e g) where
  busyNotDone := by simp
  busyNotErr := by simp
  doneNotErr := by simp
  ecodeIffErr := by cases e <;> simp [ErrorKind.code]
  etagOnlyUnsupported := by
    intro hg
    rw [fail_etag] at hg
    simp [h hg, ErrorKind.code]
  reservedZero := (statusError_fields e g).2.2.2.2.2

end Sys2Proof.Machine
end

