-- ==== Sys2Proof/Laws/Checksum.lean ====
section
/-! SUPPORT. What `CHECKSUM` can do, said once, and the fold over the words (41_checksum.md). -/

namespace Sys2Proof.Machine

theorem checksumLengthOk_iff (b : Buffer) (s : State) :
    checksumLengthOk b s = true ↔ (s.bufLen b).toNat ≤ s.bufCap b ∧ s.cklen.toNat ≤ (s.bufLen b).toNat := by
  simp [checksumLengthOk]

theorem execChecksum_success {b : Buffer} {s : State} (h : checksumLengthOk b s = true) :
    execChecksum b s = .next (s.storeResult (peacResult (peacRun s.cklen (checksumBytes b s)))
      (peacRun s.cklen (checksumBytes b s))).complete := by
  simp [execChecksum, h]

theorem execChecksum_badLength {b : Buffer} {s : State} (h : checksumLengthOk b s = false) :
    execChecksum b s = .next (s.fail .invalidGeometry 0) := by
  simp [execChecksum, h]

/-- Everything `CHECKSUM` can do: fail on its lengths, or store its result. -/
theorem execChecksum_cases (b : Buffer) (s : State) :
    (checksumLengthOk b s = false ∧ execChecksum b s = .next (s.fail .invalidGeometry 0)) ∨
    (checksumLengthOk b s = true ∧
      execChecksum b s = .next (s.storeResult (peacResult (peacRun s.cklen (checksumBytes b s)))
        (peacRun s.cklen (checksumBytes b s))).complete) := by
  cases h : checksumLengthOk b s with
  | false => exact .inl ⟨rfl, execChecksum_badLength h⟩
  | true => exact .inr ⟨rfl, execChecksum_success h⟩

@[simp] theorem wordsOf_length (bs : List Byte) : (wordsOf bs).length = bs.length / 2 := by
  induction bs using wordsOf.induct with
  | case1 lo hi rest ih => simp only [wordsOf, List.length_cons, ih]; omega
  | case2 short h =>
    match short, h with
    | [], _ => rfl
    | [_], _ => simp [wordsOf]
    | lo :: hi :: rest, h => exact (h lo hi rest rfl).elim

/-- Word `k` is formed from bytes `2k` and `2k+1`, the low byte first (R124). -/
theorem wordsOf_getElem? (bs : List Byte) (k : Nat) {lo hi : Byte} (h0 : bs[2 * k]? = some lo)
    (h1 : bs[2 * k + 1]? = some hi) : (wordsOf bs)[k]? = some (halfOfBytes lo hi) := by
  induction bs using wordsOf.induct generalizing k with
  | case1 a b rest ih =>
    cases k with
    | zero => simp_all [wordsOf]
    | succ k =>
      simpa [wordsOf] using
        ih k (by simpa [Nat.mul_add] using h0) (by simpa [Nat.mul_add, Nat.add_right_comm] using h1)
  | case2 short hs =>
    match short, hs, h0, h1 with
    | [], _, h0, _ => simp at h0
    | [_], _, _, h1 => simp at h1
    | a :: b :: rest, hs, _, _ => exact (hs a b rest rfl).elim

/-- A 16-bit quantity as a number (R53). -/
theorem halfOfBytes_toNat (lo hi : Byte) : (halfOfBytes lo hi).toNat = lo.toNat + 256 * hi.toNat := by
  have hlo := lo.isLt
  have hhi := hi.isLt
  have hsh : ((hi.setWidth 16 : Half) <<< 8).toNat = hi.toNat <<< 8 := by
    simp only [BitVec.toNat_shiftLeft, BitVec.toNat_setWidth, Nat.shiftLeft_eq]; omega
  have hse : (lo.setWidth 16 : Half).toNat = lo.toNat := by
    simp only [BitVec.toNat_setWidth]; omega
  rw [halfOfBytes, BitVec.toNat_or, hsh, hse, Nat.or_comm,
    ← Nat.shiftLeft_add_eq_or_of_lt (by omega) hi.toNat, Nat.shiftLeft_eq]
  omega

/-- One word's step in numbers: `X + w` does not wrap (R125, R127). -/
theorem peacStep_toNat (a : ChecksumState) (w : Half) :
    (peacStep a w).x.toNat = (a.c.toNat + a.x.toNat + a.y.toNat) % 2 ^ 32 % 2 ^ 16 ∧
      (peacStep a w).y.toNat = a.x.toNat + w.toNat ∧
      (peacStep a w).c.toNat = (a.c.toNat + a.x.toNat + a.y.toNat) % 2 ^ 32 / 2 ^ 16 := by
  have hx := a.x.isLt
  have hw := w.isLt
  refine ⟨?_, ?_, ?_⟩
  · simp only [peacStep, BitVec.toNat_setWidth, BitVec.toNat_add]; omega
  · simp only [peacStep, BitVec.toNat_setWidth, BitVec.toNat_add]; omega
  · simp only [peacStep, BitVec.toNat_setWidth, BitVec.toNat_add, BitVec.toNat_ushiftRight,
      Nat.shiftRight_eq_div_pow]; omega

/-- The result in numbers: `Y[15:0]` above `X` (R126). -/
theorem peacResult_toNat (a : ChecksumState) : (peacResult a).toNat = a.x.toNat + 2 ^ 16 * (a.y.toNat % 2 ^ 16) := by
  have hx := a.x.isLt
  have hsh : (a.y <<< 16).toNat = (a.y.toNat % 2 ^ 16) <<< 16 := by
    simp only [BitVec.toNat_shiftLeft, Nat.shiftLeft_eq]; omega
  have hse : (a.x.setWidth 32 : Word).toNat = a.x.toNat := by
    simp only [BitVec.toNat_setWidth]; omega
  rw [peacResult, BitVec.toNat_or, hsh, hse, Nat.or_comm,
    ← Nat.shiftLeft_add_eq_or_of_lt (by omega) (a.y.toNat % 2 ^ 16), Nat.shiftLeft_eq]
  omega

/-! The accumulators before the first word (R123). -/

@[simp] theorem peacInit_x (len : Word) : (peacInit len).x = 0x1234 := rfl
@[simp] theorem peacInit_y (len : Word) : (peacInit len).y = 0xABCD := rfl
@[simp] theorem peacInit_c (len : Word) : (peacInit len).c = len := rfl

end Sys2Proof.Machine
end

