-- ==== Sys2Proof/Laws/Encoding.lean ====
section
/-! SUPPORT. The tag and buffer codes have inverses, and a decoded word is put together from its fields. -/

namespace Sys2Proof

@[simp] theorem tagOfCode_code (t : PixelFormatTag) : tagOfCode t.code = some t := by cases t <;> rfl

/-- A code that is a tag's is that tag's code. -/
theorem code_of_tagOfCode {c : BitVec 3} {t : PixelFormatTag} (h : tagOfCode c = some t) : c = t.code := by
  revert h
  cases t <;> revert c <;> decide

theorem tagOfCode_eq_none {c : BitVec 3} : tagOfCode c = none ↔ c = 7 := by
  revert c
  decide

@[simp] theorem bufferOfCode_code (b : Buffer) : bufferOfCode b.code = b := by cases b <;> rfl

@[simp] theorem code_bufferOfCode (c : BitVec 1) : (bufferOfCode c).code = c := by
  revert c
  decide

/-- A word is its five fields, most significant first (R71). -/
theorem word_eq_fields (w : Word) :
    w = upperField w ++ bselField w ++ fmtField w ++ bit3Field w ++ opcField w := by
  apply BitVec.eq_of_getLsbD_eq
  intro i hi
  simp only [upperField, bselField, fmtField, bit3Field, opcField, BitVec.getLsbD_append, BitVec.getLsbD_extractLsb']
  interval_cases i <;> simp

/-! The fields of a word in numbers (R71). -/

theorem opcField_toNat (w : Word) : (opcField w).toNat = w.toNat % 8 := by
  simp [opcField, BitVec.extractLsb']

theorem bit3Field_toNat (w : Word) : (bit3Field w).toNat = w.toNat / 8 % 2 := by
  simp [bit3Field, BitVec.extractLsb', BitVec.toNat_ofNat, Nat.shiftRight_eq_div_pow]

theorem fmtField_toNat (w : Word) : (fmtField w).toNat = w.toNat / 16 % 8 := by
  simp [fmtField, BitVec.extractLsb', BitVec.toNat_ofNat, Nat.shiftRight_eq_div_pow]

theorem bselField_toNat (w : Word) : (bselField w).toNat = w.toNat / 128 % 2 := by
  simp [bselField, BitVec.extractLsb', BitVec.toNat_ofNat, Nat.shiftRight_eq_div_pow]

theorem upperField_toNat (w : Word) : (upperField w).toNat = w.toNat / 256 := by
  have := w.isLt
  simp [upperField, BitVec.extractLsb', BitVec.toNat_ofNat, Nat.shiftRight_eq_div_pow]
  omega

/-- A single bit of a word in numbers. -/
theorem getLsbD_eq_false_iff (w : Word) (k : Nat) : w.getLsbD k = false ↔ w.toNat / 2 ^ k % 2 = 0 := by
  rw [BitVec.getLsbD, Nat.testBit_eq_decide_div_mod_eq]
  simp

/-- A field is zero when its number is. -/
theorem field_eq_zero_iff {n : Nat} (b : BitVec n) : b = 0 ↔ b.toNat = 0 := by
  constructor
  · rintro rfl
    simp
  · intro h
    exact BitVec.eq_of_toNat_eq (by simpa using h)

/-- A code is a tag's exactly up to 6 (R73). -/
theorem tagOfCode_isSome_iff (c : BitVec 3) : (∃ t, tagOfCode c = some t) ↔ c.toNat ≤ 6 := by
  cases h : tagOfCode c with
  | some t => rw [code_of_tagOfCode h]; cases t <;> simp [PixelFormatTag.code]
  | none => rw [tagOfCode_eq_none] at h; subst h; simp

end Sys2Proof
end

