-- ==== Sys2Proof/Laws/PerInstr.lean ====
section
/-! SUPPORT. The statements made per instruction (LAWS.json): the encoded word of every command is legal. -/

namespace Sys2Proof.Laws.EncodedWordIsLegal

/-- The word of a command meets the four conditions of 30_encoding.md R76. -/
def Statement (i : Instr) : Prop := legalWord (encode i) = true

theorem none (fmt : PixelFormatTag) : Statement (.none fmt) := by cases fmt <;> rfl
theorem swapCh0Ch2 (fmt : PixelFormatTag) : Statement (.swapCh0Ch2 fmt) := by cases fmt <;> rfl
theorem rgb565ToRgb888 (fmt : PixelFormatTag) : Statement (.rgb565ToRgb888 fmt) := by cases fmt <;> rfl
theorem rgb565ToBgr888 (fmt : PixelFormatTag) : Statement (.rgb565ToBgr888 fmt) := by cases fmt <;> rfl
theorem checksum (bsel : Buffer) : Statement (.checksum bsel) := by cases bsel <;> rfl

end Sys2Proof.Laws.EncodedWordIsLegal
end

