-- ==== Sys2Proof/Laws/Transcode.lean ====
section
/-! SUPPORT. What a T command can do, said once, and what the three bodies do to a list of bytes (40_transcode.md). -/

namespace Sys2Proof.Machine

theorem transcode_unsupported {op : TOp} {fmt : PixelFormatTag} (h : outTag op fmt = none)
    (body : List Byte → List Byte) (s : State) :
    transcode op fmt body s = .next (s.fail .unsupportedFormat fmt.code) := by
  simp [transcode, h]

theorem transcode_badGeometry {op : TOp} {fmt tag : PixelFormatTag} (h : outTag op fmt = some tag)
    (body : List Byte → List Byte) {s : State} (hg : geometryOk op fmt s = false) :
    transcode op fmt body s = .next (s.fail .invalidGeometry 0) := by
  simp [transcode, h, hg]

theorem transcode_success {op : TOp} {fmt tag : PixelFormatTag} (h : outTag op fmt = some tag)
    (body : List Byte → List Byte) {s : State} (hg : geometryOk op fmt s = true) :
    transcode op fmt body s = .next (s.storeOutput (body s.inputBytes) tag).complete := by
  simp [transcode, h, hg]

/-- Everything a T command can do: fail on its format, fail on its geometry, or store its output. -/
theorem transcode_cases (op : TOp) (fmt : PixelFormatTag) (body : List Byte → List Byte) (s : State) :
    (outTag op fmt = none ∧ transcode op fmt body s = .next (s.fail .unsupportedFormat fmt.code)) ∨
    (∃ tag, outTag op fmt = some tag ∧ geometryOk op fmt s = false ∧
      transcode op fmt body s = .next (s.fail .invalidGeometry 0)) ∨
    (∃ tag, outTag op fmt = some tag ∧ geometryOk op fmt s = true ∧
      transcode op fmt body s = .next (s.storeOutput (body s.inputBytes) tag).complete) := by
  cases h : outTag op fmt with
  | none => exact .inl ⟨rfl, transcode_unsupported h body s⟩
  | some tag =>
    cases hg : geometryOk op fmt s with
    | false => exact .inr (.inl ⟨tag, rfl, rfl, transcode_badGeometry h body hg⟩)
    | true => exact .inr (.inr ⟨tag, rfl, rfl, transcode_success h body hg⟩)

/-- The five checks of R93 as arithmetic. -/
theorem geometryOk_iff (op : TOp) (fmt : PixelFormatTag) (s : State) :
    geometryOk op fmt s = true ↔
      (1 ≤ s.width.toNat ∧ 1 ≤ s.height.toNat ∧ 1 ≤ s.channels.toNat) ∧
      s.channels.toNat = stride s.params fmt ∧
      s.ibufLen.toNat ≤ s.params.ibufCap ∧
      s.ibufLen.toNat = s.height.toNat * s.width.toNat * s.channels.toNat ∧
      (op = .swapCh0Ch2 → s.width.toNat * s.channels.toNat % 4 = 0) := by
  cases op <;>
    simp [geometryOk, geometryPositive, channelsMatch, inputHeld, inputLengthOk, rowAligned, and_assoc]

/-- The five checks read no more than the geometry registers, `IBUF_LEN` and the parameters. -/
theorem geometryOk_congr {op : TOp} {fmt : PixelFormatTag} {s t : State} (hw : t.width = s.width)
    (hh : t.height = s.height) (hc : t.channels = s.channels) (hl : t.ibufLen = s.ibufLen)
    (hp : t.params = s.params) : geometryOk op fmt t = geometryOk op fmt s := by
  simp [geometryOk, geometryPositive, channelsMatch, inputHeld, inputLengthOk, rowAligned, hw, hh, hc, hl, hp]

/-- The body of an operation (R95, R96, R98, R99). -/
def TOp.body : TOp → List Byte → List Byte
  | .none => copyBytes
  | .swapCh0Ch2 => swapGroups
  | .rgb565ToRgb888 => expandToRgb
  | .rgb565ToBgr888 => expandToBgr

/-- The number of output bytes for `n` input bytes (R95, R96, R98, R99). -/
def TOp.outLen : TOp → Nat → Nat
  | .none, n => n
  | .swapCh0Ch2, n => n
  | .rgb565ToRgb888, n => 3 * (n / 2)
  | .rgb565ToBgr888, n => 3 * (n / 2)

@[simp] theorem swapGroups_length (bs : List Byte) : (swapGroups bs).length = bs.length := by
  induction bs using swapGroups.induct with
  | case1 b0 b1 b2 b3 rest ih => simp [swapGroups, ih]
  | case2 short h => rw [swapGroups]; exact h

@[simp] theorem expandToRgb_length (bs : List Byte) : (expandToRgb bs).length = 3 * (bs.length / 2) := by
  induction bs using expandToRgb.induct with
  | case1 lo hi rest ih => simp only [expandToRgb, List.length_cons, ih]; omega
  | case2 short h =>
    match short, h with
    | [], _ => rfl
    | [_], _ => simp [expandToRgb]
    | lo :: hi :: rest, h => exact (h lo hi rest rfl).elim

@[simp] theorem expandToBgr_length (bs : List Byte) : (expandToBgr bs).length = 3 * (bs.length / 2) := by
  induction bs using expandToBgr.induct with
  | case1 lo hi rest ih => simp only [expandToBgr, List.length_cons, ih]; omega
  | case2 short h =>
    match short, h with
    | [], _ => rfl
    | [_], _ => simp [expandToBgr]
    | lo :: hi :: rest, h => exact (h lo hi rest rfl).elim

theorem TOp.body_length (op : TOp) (bs : List Byte) : (op.body bs).length = op.outLen bs.length := by
  cases op <;> simp [TOp.body, TOp.outLen, copyBytes]

/-- The output of an accepted command fits a 32-bit length and OBUF (00_scope.md R4). -/
theorem outLen_le_obufCap {p : Params} (hp : p.ok = true) {n : Nat} (hn : n ≤ p.ibufCap) (op : TOp) :
    op.outLen n ≤ p.obufCap ∧ op.outLen n < 2 ^ 32 := by
  simp only [Params.ok, Bool.and_eq_true, decide_eq_true_eq] at hp
  cases op <;> simp only [TOp.outLen] <;> omega

/-- Group `k` of the swap's output is group `k` of its input with bytes 0 and 2 exchanged (R96). -/
theorem swapGroups_group (bs : List Byte) (k : Nat) (h : 4 * k + 4 ≤ bs.length) :
    (swapGroups bs)[4 * k]? = bs[4 * k + 2]? ∧ (swapGroups bs)[4 * k + 1]? = bs[4 * k + 1]? ∧
      (swapGroups bs)[4 * k + 2]? = bs[4 * k]? ∧ (swapGroups bs)[4 * k + 3]? = bs[4 * k + 3]? := by
  induction bs using swapGroups.induct generalizing k with
  | case1 b0 b1 b2 b3 rest ih =>
    cases k with
    | zero => simp [swapGroups]
    | succ k =>
      have := ih k (by simp only [List.length_cons] at h; omega)
      simpa [swapGroups, Nat.mul_add, Nat.add_right_comm] using this
  | case2 short hs =>
    match short, hs, h with
    | [], _, h => simp at h
    | [_], _, h => simp at h
    | [_, _], _, h => simp at h
    | [_, _, _], _, h => simp at h
    | b0 :: b1 :: b2 :: b3 :: rest, hs, _ => exact (hs b0 b1 b2 b3 rest rfl).elim

/-- The swap is an involution (R101). -/
theorem swapGroups_swapGroups (bs : List Byte) : swapGroups (swapGroups bs) = bs := by
  induction bs using swapGroups.induct with
  | case1 b0 b1 b2 b3 rest ih => simp [swapGroups, ih]
  | case2 short h =>
    have hs : swapGroups short = short := by rw [swapGroups]; exact h
    rw [hs, hs]

/-- Pixel `k` of the RGB output depends on sample `k` alone (R98). -/
theorem expandToRgb_pixel (bs : List Byte) (k : Nat) {lo hi : Byte} (h0 : bs[2 * k]? = some lo)
    (h1 : bs[2 * k + 1]? = some hi) :
    (expandToRgb bs)[3 * k]? = some (red8 (halfOfBytes lo hi)) ∧
      (expandToRgb bs)[3 * k + 1]? = some (green8 (halfOfBytes lo hi)) ∧
      (expandToRgb bs)[3 * k + 2]? = some (blue8 (halfOfBytes lo hi)) := by
  induction bs using expandToRgb.induct generalizing k with
  | case1 a b rest ih =>
    cases k with
    | zero => simp_all [expandToRgb]
    | succ k =>
      have := ih k (by simpa [Nat.mul_add] using h0) (by simpa [Nat.mul_add, Nat.add_right_comm] using h1)
      simpa [expandToRgb, Nat.mul_add, Nat.add_right_comm] using this
  | case2 short hs =>
    match short, hs, h0, h1 with
    | [], _, h0, _ => simp at h0
    | [_], _, _, h1 => simp at h1
    | a :: b :: rest, hs, _, _ => exact (hs a b rest rfl).elim

/-- The BGR output is the RGB output with bytes `3k` and `3k+2` exchanged (R99). -/
theorem expandToBgr_pixel (bs : List Byte) (k : Nat) :
    (expandToBgr bs)[3 * k]? = (expandToRgb bs)[3 * k + 2]? ∧
      (expandToBgr bs)[3 * k + 1]? = (expandToRgb bs)[3 * k + 1]? ∧
      (expandToBgr bs)[3 * k + 2]? = (expandToRgb bs)[3 * k]? := by
  induction bs using expandToRgb.induct generalizing k with
  | case1 a b rest ih =>
    cases k with
    | zero => simp [expandToRgb, expandToBgr]
    | succ k => simpa [expandToRgb, expandToBgr, Nat.mul_add, Nat.add_right_comm] using ih k
  | case2 short hs =>
    match short, hs with
    | [], _ => simp [expandToRgb, expandToBgr]
    | [_], _ => simp [expandToRgb, expandToBgr]
    | a :: b :: rest, hs => exact (hs a b rest rfl).elim

end Sys2Proof.Machine
end

