-- ==== Sys2Proof/Laws/Step.lean ====
section
/-! SUPPORT. Everything a command, a host access and a step can do, said once each. -/

namespace Sys2Proof.Machine

/-- A command is a T command with its own operation and body, or `CHECKSUM`. -/
theorem exec_transcode_or_checksum (i : Instr) :
    (∃ op fmt, (∀ b, i ≠ .checksum b) ∧ ∀ s, exec i s = transcode op fmt op.body s) ∨
      ∃ b, i = .checksum b ∧ ∀ s, exec i s = execChecksum b s := by
  cases i with
  | none fmt => exact .inl ⟨.none, fmt, by simp, fun _ => rfl⟩
  | swapCh0Ch2 fmt => exact .inl ⟨.swapCh0Ch2, fmt, by simp, fun _ => rfl⟩
  | rgb565ToRgb888 fmt => exact .inl ⟨.rgb565ToRgb888, fmt, by simp, fun _ => rfl⟩
  | rgb565ToBgr888 fmt => exact .inl ⟨.rgb565ToBgr888, fmt, by simp, fun _ => rfl⟩
  | checksum b => exact .inr ⟨b, rfl, fun _ => rfl⟩

/-- Everything a legal command can do: fail and change `STATUS` alone, store the output of a T command, or store the
result of `CHECKSUM`. -/
theorem exec_cases (i : Instr) (s : State) :
    (∃ fmt, exec i s = .next (s.fail .unsupportedFormat fmt)) ∨
    exec i s = .next (s.fail .invalidGeometry 0) ∨
    (∃ op fmt tag, (∀ b, i ≠ .checksum b) ∧ outTag op fmt = some tag ∧ geometryOk op fmt s = true ∧
      exec i s = .next (s.storeOutput (op.body s.inputBytes) tag).complete) ∨
    (∃ b, i = .checksum b ∧ checksumLengthOk b s = true ∧
      exec i s = .next (s.storeResult (peacResult (peacRun s.cklen (checksumBytes b s)))
        (peacRun s.cklen (checksumBytes b s))).complete) := by
  rcases exec_transcode_or_checksum i with ⟨op, fmt, hi, h⟩ | ⟨b, rfl, h⟩
  · rcases transcode_cases op fmt op.body s with ⟨_, h'⟩ | ⟨tag, _, _, h'⟩ | ⟨tag, ht, hg, h'⟩
    · exact .inl ⟨fmt.code, (h s).trans h'⟩
    · exact .inr (.inl ((h s).trans h'))
    · exact .inr (.inr (.inl ⟨op, fmt, tag, hi, ht, hg, (h s).trans h'⟩))
  · rcases execChecksum_cases b s with ⟨_, h'⟩ | ⟨hl, h'⟩
    · exact .inr (.inl ((h s).trans h'))
    · exact .inr (.inr (.inr ⟨b, rfl, hl, (h s).trans h'⟩))

/-- Everything the end of a command can do. -/
theorem endOfCommand_cases (s : State) :
    (∃ e g, (g ≠ 0 → e = .unsupportedFormat) ∧ endOfCommand s = .next (s.fail e g)) ∨
    (∃ i op fmt tag, decode s.lcmd = .command i ∧ (∀ b, i ≠ .checksum b) ∧ outTag op fmt = some tag ∧
      geometryOk op fmt s = true ∧
      endOfCommand s = .next (s.storeOutput (op.body s.inputBytes) tag).complete) ∨
    (∃ b, decode s.lcmd = .command (.checksum b) ∧ checksumLengthOk b s = true ∧
      endOfCommand s = .next (s.storeResult (peacResult (peacRun s.cklen (checksumBytes b s)))
        (peacRun s.cklen (checksumBytes b s))).complete) := by
  cases hd : decode s.lcmd with
  | illegal why => exact .inl ⟨.illegalCommand, 0, by simp, by simp [endOfCommand, hd]⟩
  | command i =>
    have he : endOfCommand s = exec i s := by simp [endOfCommand, hd]
    rcases exec_cases i s with ⟨f, h⟩ | h | ⟨op, fmt, tag, hi, ht, hg, h⟩ | ⟨b, rfl, hl, h⟩
    · exact .inl ⟨_, _, fun _ => rfl, he.trans h⟩
    · exact .inl ⟨_, _, by simp, he.trans h⟩
    · exact .inr (.inl ⟨i, op, fmt, tag, rfl, hi, ht, hg, he.trans h⟩)
    · exact .inr (.inr ⟨b, rfl, hl, he.trans h⟩)

/-- The end of a command always gives a next state. -/
theorem endOfCommand_next (s : State) : ∃ t, endOfCommand s = .next t := by
  rcases endOfCommand_cases s with ⟨_, _, _, h⟩ | ⟨_, _, _, _, _, _, _, _, h⟩ | ⟨_, _, _, h⟩ <;> exact ⟨_, h⟩

/-- Everything a step can do, with the condition under which each agent moves. -/
theorem step_cases (s : State) :
    (s.busy = false ∧ s.host = [] ∧ step s = .next s) ∨
    (∃ a rest, s.hostMovesNext ∧ s.host = a :: rest ∧ step s = hostAccess a s.afterHostTurn) ∨
    (s.blockMovesNext ∧ step s = endOfCommand s.afterBlockTurn) := by
  cases hb : s.busy with
  | false =>
    cases hh : s.host with
    | nil => exact .inl ⟨rfl, rfl, by simp [step, nextMove, hb, hh]⟩
    | cons a rest =>
      exact .inr (.inl ⟨a, rest, ⟨by simp [hh], .inl hb⟩, rfl, by
        simp [step, nextMove, hb, hh, State.afterHostTurn]⟩)
  | true =>
    refine .inr ?_
    cases ht : s.turns with
    | nil => exact .inr ⟨⟨hb, .inl (by simp [ht])⟩, by simp [step, nextMove, hb, ht, State.afterBlockTurn]⟩
    | cons g ts =>
      cases g with
      | block => exact .inr ⟨⟨hb, .inl (by simp [ht])⟩, by simp [step, nextMove, hb, ht, State.afterBlockTurn]⟩
      | host =>
        cases hh : s.host with
        | nil =>
          exact .inr ⟨⟨hb, .inr hh⟩, by simp [step, nextMove, hb, ht, hh, State.afterBlockTurn]⟩
        | cons a rest =>
          exact .inl ⟨a, rest, ⟨by simp [hh], .inr (by simp [ht])⟩, rfl, by
            simp [step, nextMove, hb, ht, hh, State.afterHostTurn]⟩

/-- When the block moves next, a step is the end of the command in flight. -/
theorem step_of_blockMovesNext {s : State} (h : s.blockMovesNext) : step s = endOfCommand s.afterBlockTurn := by
  obtain ⟨hb, h⟩ := h
  rcases step_cases s with ⟨hb', _⟩ | ⟨a, rest, ⟨hn, ht⟩, _⟩ | ⟨_, hs⟩
  · simp [hb] at hb'
  · rcases ht with ht | ht
    · simp [hb] at ht
    · rcases h with h | h
      · exact absurd ht h
      · exact absurd h hn
  · exact hs

/-- When the host moves next, a step is its next access. -/
theorem step_of_hostMovesNext {s : State} {a : HostAccess} {rest : List HostAccess} (h : s.hostMovesNext)
    (hh : s.host = a :: rest) : step s = hostAccess a s.afterHostTurn := by
  obtain ⟨hn, h⟩ := h
  rcases step_cases s with ⟨_, hh', _⟩ | ⟨a', rest', _, hh', hs⟩ | ⟨⟨hb, hc⟩, _⟩
  · exact absurd hh' hn
  · rw [hh] at hh'
    obtain ⟨rfl, rfl⟩ := List.cons.inj hh'
    exact hs
  · rcases hc with hc | hc
    · rcases h with h | h
      · simp [hb] at h
      · exact absurd h hc
    · exact absurd hc hn

/-- What a host access that is not refused does to the state: return a value, return a free value, write a register,
write an IBUF byte, poll again, or reset. -/
theorem hostAccess_cases {a : HostAccess} {s t : State} (h : hostAccess a s = .next t) :
    (∃ v, t = s.returnValue v) ∨ t = s.returnFreeWord ∨ (∃ i, t = s.returnFreeByte i) ∨
    (∃ off v r, a = .wr off v ∧ regAt off = some r ∧ s.busy = false ∧ t = s.writeReg v r) ∨
    (∃ i b, a = .wrIbuf i b ∧ i < s.params.ibufCap ∧ s.busy = false ∧ t = { s with ibuf := s.ibuf.write i b }) ∨
    (a = .poll ∧ s.busy = true ∧ t = { s.returnValue s.status with host := .poll :: s.host }) ∨
    (a = .reset ∧ t = s.assertReset) := by
  cases a with
  | rd off =>
    simp only [hostAccess, hostReadReg] at h
    split at h
    · cases h
    · split at h
      · injection h with h; exact .inl ⟨_, h.symm⟩
      · injection h with h; exact .inr (.inl h.symm)
  | wr off v =>
    simp only [hostAccess, hostWriteReg] at h
    split at h
    · cases h
    · rename_i r hr
      split at h
      · cases h
      · rename_i hb
        injection h with h
        exact .inr (.inr (.inr (.inl ⟨off, v, r, rfl, hr, by simpa using hb, h.symm⟩)))
  | rdIbuf i =>
    simp only [hostAccess, hostReadIbuf] at h
    split at h
    · split at h
      · injection h with h; exact .inl ⟨_, h.symm⟩
      · injection h with h; exact .inr (.inr (.inl ⟨i, h.symm⟩))
    · cases h
  | wrIbuf i b =>
    simp only [hostAccess, hostWriteIbuf] at h
    split at h
    · rename_i hi
      split at h
      · cases h
      · rename_i hb
        injection h with h
        exact .inr (.inr (.inr (.inr (.inl ⟨i, b, rfl, hi, by simpa using hb, h.symm⟩))))
    · cases h
  | rdObuf i =>
    simp only [hostAccess, hostReadObuf] at h
    split at h
    · split at h
      · split at h
        · injection h with h; exact .inl ⟨_, h.symm⟩
        · injection h with h; exact .inr (.inr (.inl ⟨i, h.symm⟩))
      · injection h with h; exact .inr (.inr (.inl ⟨i, h.symm⟩))
    · cases h
  | wrObuf i b => cases h
  | otherWidth => cases h
  | poll =>
    simp only [hostAccess, hostPoll] at h
    split at h
    · rename_i hb
      injection h with h
      exact .inr (.inr (.inr (.inr (.inr (.inl ⟨rfl, hb, h.symm⟩)))))
    · injection h with h; exact .inl ⟨_, h.symm⟩
  | reset =>
    injection h with h
    exact .inr (.inr (.inr (.inr (.inr (.inr ⟨rfl, h.symm⟩)))))

/-- Taking the host's turn out keeps the flags. -/
theorem afterHostTurn_busy (s : State) : s.afterHostTurn.busy = s.busy := by simp [State.busy]

/-- A step that leaves the output keeps OBUF, `OBUF_LEN` and the parameters (R186). -/
theorem step_leavesOutput {u v : State} (h : step u = .next v) (hl : u.LeavesOutput v) :
    v.obuf = u.obuf ∧ v.obufLen = u.obufLen ∧ v.params = u.params := by
  rcases step_cases u with ⟨_, _, hs⟩ | ⟨a, rest, hm, hh, hs⟩ | ⟨hm, hs⟩ <;> rw [h] at hs
  · injection hs with hs
    subst hs
    exact ⟨rfl, rfl, rfl⟩
  · rcases hostAccess_cases hs.symm with
      ⟨w, rfl⟩ | rfl | ⟨i, rfl⟩ | ⟨_, w, r, _, _, _, rfl⟩ | ⟨_, _, _, _, _, rfl⟩ | ⟨_, _, rfl⟩ | ⟨rfl, rfl⟩
    case inr.inr.inr.inl => cases r <;> simp [State.writeReg]
    case inr.inr.inr.inr.inr.inr => exact (hl.1 ⟨hm, rest, hh⟩).elim
    all_goals simp
  · rcases endOfCommand_cases u.afterBlockTurn with
      ⟨e, g, _, h'⟩ | ⟨i, _, _, _, hd, hi, _, _, h'⟩ | ⟨b, _, _, h'⟩ <;>
      (rw [← hs] at h'; injection h' with h'; subst h')
    · simp
    · exact (hl.2 ⟨hm, by simp, i, hd, hi⟩).elim
    · simp

/-- A run of `k + 1` steps whose first step is known. -/
theorem coreRun_succ (M : Host.Core) {s t : M.State} (k : Nat) (h : M.step s = .next t) :
    M.run (k + 1) s = M.run k t := by
  simp only [Host.Core.run, h]

end Sys2Proof.Machine
end

