-- ==== Sys2Proof/Tests/Slice0.lean ====
section
/-! SUPPORT. Tests against words and vectors of 95_test_vectors.md and 30_encoding.md, and for every statement with
hypotheses a state that meets them. The expected values are the spec's. -/

namespace Sys2Proof.Tests

open Sys2Proof.Machine

/-- An instance with `IBUF_CAP = 64`, `OBUF_CAP = 96` (V-T13). -/
def smallParams : Params := ⟨64, 96, 2⟩

/-- `LOAD bs`; `GEO w, h, c`; `WR CKLEN, n` after reset. -/
def loaded (bs : List Byte) (w h c n : Word) : State :=
  { State.resetOf smallParams with
    ibuf := Memory.ofBytes bs, ibufLen := BitVec.ofNat 32 bs.length, width := w, height := h, channels := c, cklen := n }

/-- `s` with one host access to come. -/
def accessing (s : State) (a : HostAccess) : State := { s with host := [a] }

/-- `s` with a command in flight and the host's turn. -/
def interrupted (s : State) (a : HostAccess) : State :=
  { s.placeCommand 4 with turns := [.host], host := [a] }

/-- `STATUS`, `OBUF_LEN`, `OFMT` and OBUF of a next state. -/
def outputOf : Host.Outcome State Fault Refusal → Option (Word × Word × Word × Memory)
  | .next t => some (t.status, t.obufLen, t.ofmt, t.obuf)
  | _ => none

/-- `STATUS` and `RESULT` of a next state. -/
def resultOf : Host.Outcome State Fault Refusal → Option (Word × Word)
  | .next t => some (t.status, t.result)
  | _ => none

/-- Why a step is refused. -/
def refusalOf : Host.Outcome State Fault Refusal → Option Refusal
  | .refused r => some r
  | _ => none

/-! Each check of WellFormed refuses an ill-formed word (words of V-E). -/

theorem test_reservedBits_refused : reservedBitsZero 0x0000006A = false ∧ reservedBitsZero 0x00000100 = false := by decide
theorem test_reservedOpc_refused : opcDefined 0x00000005 = false := by decide
theorem test_formatT_refused : formatTFieldsOk 0x00000071 = false ∧ formatTFieldsOk 0x00000080 = false := by decide
theorem test_formatK_refused : formatKFieldsOk 0x00000014 = false := by decide
theorem test_illegal_words_refused :
    legalWord 0x0000006A = false ∧ legalWord 0x00000005 = false ∧ legalWord 0x00000071 = false ∧
    legalWord 0x00000014 = false ∧ legalWord 0x00000084 = true := by decide

/-! One word of every constructor, from the formats of R71 and the codes of R72 to R74:
`0…0 0 fff 0 ooo` and `0…0 b 000 0 100`. -/

theorem test_decode_none : decode 0b00000000000000000000000001010000 = .command (.none .bgr888) := by decide
theorem test_decode_swap : decode 0b00000000000000000000000000100001 = .command (.swapCh0Ch2 .uyvy422) := by decide
theorem test_decode_rgb : decode 0b00000000000000000000000001100010 = .command (.rgb565ToRgb888 .rgb565) := by decide
theorem test_decode_bgr : decode 0b00000000000000000000000001100011 = .command (.rgb565ToBgr888 .rgb565) := by decide
theorem test_decode_checksum :
    decode 0b00000000000000000000000000000100 = .command (.checksum .ibuf) ∧
    decode 0b00000000000000000000000010000100 = .command (.checksum .obuf) := by decide
theorem test_decodeTableWord :
    decodeTableWord 32 0x63 = some (.rgb565ToBgr888 .rgb565) ∧ decodeTableWord 32 0x6B = none := by decide

/-! At most two vectors per command. -/

/-- V-T6. -/
theorem test_none_copies : outputOf (exec (.none .bgr888) (loaded [0x0A, 0x0B, 0x0C] 1 1 3 0)) =
    some (2, 3, 5, [(0, 0x0A), (1, 0x0B), (2, 0x0C)]) := by decide
/-- V-T7. -/
theorem test_none_checks_stride : outputOf (exec (.none .rgb888) (loaded [0x0A, 0x0B, 0x0C, 0x0D] 1 1 4 0)) =
    some (0x14, 0, 0, []) := by decide
/-- V-T4. -/
theorem test_swap_uyvy : outputOf (exec (.swapCh0Ch2 .uyvy422) (loaded [0x55, 0x10, 0xAA, 0x20] 2 1 2 0)) =
    some (2, 4, 3, [(0, 0xAA), (1, 0x10), (2, 0x55), (3, 0x20)]) := by decide
/-- V-T5. -/
theorem test_swap_row_not_aligned : outputOf (exec (.swapCh0Ch2 .uyvy422) (loaded [0x55, 0x10, 0xAA, 0x20] 1 2 2 0)) =
    some (0x14, 0, 0, []) := by decide
/-- V-T1, samples `0x1234` and `0xABCD`. -/
theorem test_rgb_bytes : outputOf (exec (.rgb565ToRgb888 .rgb565) (loaded [0x34, 0x12, 0xCD, 0xAB] 2 1 2 0)) =
    some (2, 6, 4, [(0, 0x10), (1, 0x44), (2, 0xA0), (3, 0xA8), (4, 0x78), (5, 0x68)]) := by decide
/-- V-T10: the product is 2^33, not 0. -/
theorem test_rgb_product_does_not_wrap :
    outputOf (exec (.rgb565ToRgb888 .rgb565) (loaded [] 0x10000 0x10000 2 0)) = some (0x14, 0, 0, []) := by decide
/-- V-T1, samples `0x1234` and `0xABCD`. -/
theorem test_bgr_bytes : outputOf (exec (.rgb565ToBgr888 .rgb565) (loaded [0x34, 0x12, 0xCD, 0xAB] 2 1 2 0)) =
    some (2, 6, 5, [(0, 0xA0), (1, 0x44), (2, 0x10), (3, 0x68), (4, 0x78), (5, 0xA8)]) := by decide
/-- V-T12: the word `0x00000043`. -/
theorem test_bgr_reports_the_tag : outputOf (exec (.rgb565ToBgr888 .rgb888) (loaded [] 0 0 0 0)) =
    some (0x424, 0, 0, []) := by decide
/-- V-K7: `Y` keeps its 17th bit. -/
theorem test_checksum_wide_y :
    resultOf (exec (.checksum .ibuf) (loaded [0xFF, 0xFF, 0xFF, 0xFF, 0xFF, 0xFF] 0 0 0 6)) =
      some (2, 0xD0398E41) := by decide
/-- V-K11. -/
theorem test_checksum_too_long : resultOf (exec (.checksum .ibuf) (loaded [1, 2, 3, 4] 0 0 0 5)) = some (0x14, 0) := by
  decide

/-! Steps. -/

/-- V-R: `CHECKSUM IBUF` with `CKLEN = 0` directly after reset. -/
theorem test_step_after_reset : resultOf (step (State.reset.withFetchWord 32 4)) = some (2, 0xABCD1234) := by decide
/-- V-H: `WR CMD, 0xDEADBEEF` ends with `0x00000034`. -/
theorem test_step_illegal : resultOf (step (State.reset.withFetchWord 32 0xDEADBEEF)) = some (0x34, 0) := by decide
/-- V-H: offset `0x28`. -/
theorem test_undefined_offset_refused :
    refusalOf (step (accessing State.reset (.rd 0x28))) = some .undefinedRegisterOffset := by decide
/-- V-H: a write to OBUF. -/
theorem test_obuf_write_refused :
    refusalOf (step (accessing State.reset (.wrObuf 0 1))) = some .hostWriteToObuf := by decide

/-! ### Witnesses: concrete states that meet every hypothesis of a statement together -/

/-- A 3 x 1 image of 4-byte pixels (V-T3). -/
def yuvx : State :=
  loaded [0x10, 0x11, 0x12, 0x13, 0x14, 0x15, 0x16, 0x17, 0x18, 0x19, 0x1A, 0x1B] 3 1 4 5

/-- A 2 x 1 image of 2-byte pixels (V-T4). -/
def yuv422 : State := loaded [0x55, 0x10, 0xAA, 0x20] 2 1 2 0

/-- The largest input of the small instance (V-T13): 32 samples. -/
def fullInput : State := loaded (List.replicate 64 0xFF) 32 1 2 64

/-- After a successful `NONE YUVX`. -/
def copied : State := ((yuvx.storeOutput yuvx.inputBytes .yuvx).complete)

theorem yuvx_idle : yuvx.busy = false := by decide
theorem copied_idle : copied.busy = false := by decide

theorem accessing_hostMovesNext {s : State} (h : s.busy = false) (a : HostAccess) : (accessing s a).hostMovesNext :=
  ⟨List.cons_ne_nil _ _, .inl h⟩

theorem interrupted_hostMovesNext (s : State) (a : HostAccess) : (interrupted s a).hostMovesNext :=
  ⟨List.cons_ne_nil _ _, .inr rfl⟩

theorem interrupted_busy (s : State) (a : HostAccess) : (interrupted s a).busy = true := by
  show statusBusy.getLsbD 0 = true
  decide

theorem witness_LegalWordsAreTheThirtyOfTheRule :
    (yuvx.placeCommand 0x14).blockMovesNext ∧ legalWord (yuvx.placeCommand 0x14).lcmd = false ∧
    legalWord 0xE4 = false ∧ legalWord 0x84 = true ∧ (yuvx.placeCommand 0x61).blockMovesNext ∧
    (yuvx.placeCommand 0x61).lcmd = 0x61 := by
  refine ⟨⟨by decide, .inr rfl⟩, by decide, by decide, by decide, ⟨by decide, .inr rfl⟩, rfl⟩

theorem witness_StepRunsTheDecodedCommand :
    (yuvx.placeCommand 0x01).blockMovesNext ∧ decode (yuvx.placeCommand 0x01).lcmd = .command (.swapCh0Ch2 .yuvx) ∧
    { interrupted yuvx .poll with turns := [.block, .host] }.blockMovesNext ∧
    { interrupted yuvx .poll with host := [] }.blockMovesNext :=
  ⟨⟨by decide, .inr rfl⟩, by decide, ⟨by decide, .inl (by decide)⟩, ⟨by decide, .inr rfl⟩⟩

theorem witness_LaunchLatchesTheCommand :
    (accessing yuvx (.wr 0x00 0xFFFFFFFF)).busy = false ∧
    (accessing yuvx (.wr 0x00 0xFFFFFFFF)).host = [.wr 0x00 0xFFFFFFFF] ∧
    (interrupted yuvx .poll).busy = true ∧ ∃ t, step (interrupted yuvx .poll) = .next t ∧ t.busy = true :=
  ⟨by decide, rfl, by decide, _, rfl, by decide⟩

theorem witness_RegisterWritesStoreOrAreIgnored :
    (∀ off ∈ [0x04, 0x08, 0x0C, 0x10, 0x14, 0x18, 0x1C, 0x20, 0x24],
      (accessing yuvx (.wr off 0xFFFFFFFF)).busy = false ∧
      (accessing yuvx (.wr off 0xFFFFFFFF)).host = [.wr off 0xFFFFFFFF]) ∧
    (interrupted yuvx (.wr 0x24 0)).busy = true ∧ (interrupted yuvx (.wr 0x24 0)).turns.head? = some .host ∧
    (interrupted yuvx (.wr 0x00 0)).host = [.wr 0x00 0] :=
  ⟨fun _ _ => ⟨yuvx_idle, rfl⟩, interrupted_busy _ _, rfl, rfl⟩

theorem witness_RegisterReadsReturnTheValueHeld :
    (∀ off ∈ [0x00, 0x04, 0x08, 0x0C, 0x10, 0x14, 0x18, 0x1C, 0x20, 0x24],
      (accessing copied (.rd off)).hostMovesNext ∧ (accessing copied (.rd off)).host = [.rd off] ∧
      (interrupted copied (.rd off)).hostMovesNext ∧ (interrupted copied (.rd off)).busy = true) ∧
    copied.busy = false ∧ copied.ofmtDefined = true ∧ copied.resultDefined = false ∧ yuvx.ofmtDefined = false ∧
    { copied with resultDefined := true }.resultDefined = true :=
  ⟨fun _ _ => ⟨accessing_hostMovesNext copied_idle _, rfl, interrupted_hostMovesNext _ _, interrupted_busy _ _⟩, by decide, rfl, rfl, rfl, rfl⟩

theorem witness_BufferAccessesReadAndWriteOneByte :
    (∀ i ∈ [0, 63, 64], ∀ b : Byte,
      (accessing yuvx (.wrIbuf i b)).hostMovesNext ∧ (accessing yuvx (.wrIbuf i b)).busy = false ∧
      (interrupted yuvx (.wrIbuf i b)).hostMovesNext ∧ (interrupted yuvx (.wrIbuf i b)).busy = true ∧
      (accessing yuvx (.rdIbuf i)).hostMovesNext ∧ (accessing yuvx (.wrObuf i b)).hostMovesNext) ∧
    (∀ i ∈ [0, 11, 12, 95, 96],
      (accessing copied (.rdObuf i)).hostMovesNext ∧ (interrupted copied (.rdObuf i)).busy = true) ∧
    yuvx.params.ibufCap = 64 ∧ yuvx.params.obufCap = 96 ∧ yuvx.ibuf.read 11 = some 0x1B ∧ yuvx.ibuf.read 12 = none ∧
    copied.obufLen = 12 ∧ copied.obuf.read 11 = some 0x1B :=
  ⟨fun _ _ _ => ⟨accessing_hostMovesNext yuvx_idle _, yuvx_idle, interrupted_hostMovesNext _ _, interrupted_busy _ _,
      accessing_hostMovesNext yuvx_idle _, accessing_hostMovesNext yuvx_idle _⟩,
    fun _ _ => ⟨accessing_hostMovesNext copied_idle _, interrupted_busy _ _⟩, rfl, rfl, by decide, by decide, by decide, by decide⟩

theorem witness_AccessesOutsideTheInterfaceAreRefused :
    (∀ off ∈ [0x01, 0x25, 0x28], off ∉ [0x00, 0x04, 0x08, 0x0C, 0x10, 0x14, 0x18, 0x1C, 0x20, 0x24] ∧
      (accessing yuvx (.rd off)).hostMovesNext ∧ (interrupted yuvx (.wr off 0)).hostMovesNext) ∧
    (accessing yuvx .otherWidth).hostMovesNext ∧ (interrupted yuvx (.rdIbuf 64)).hostMovesNext ∧
    (accessing yuvx (.wrIbuf 64 0)).hostMovesNext ∧ (accessing yuvx (.rdObuf 96)).hostMovesNext ∧
    yuvx.params.ibufCap ≤ 64 ∧ yuvx.params.obufCap ≤ 96 := by
  refine ⟨fun off h => ⟨?_, accessing_hostMovesNext yuvx_idle _, interrupted_hostMovesNext _ _⟩,
    accessing_hostMovesNext yuvx_idle _, interrupted_hostMovesNext _ _, accessing_hostMovesNext yuvx_idle _,
    accessing_hostMovesNext yuvx_idle _, by decide, by decide⟩
  revert off
  decide

theorem witness_HostReadsChangeNothingInTheBlock :
    (accessing yuvx (.rd 0x08)).hostMovesNext ∧ (∃ t, step (accessing yuvx (.rd 0x08)) = .next t) ∧
    (interrupted yuvx .poll).hostMovesNext ∧ (∃ t, step (interrupted yuvx .poll) = .next t) ∧
    (accessing yuvx (.rdIbuf 12)).hostMovesNext ∧ (∃ t, step (accessing yuvx (.rdIbuf 12)) = .next t) ∧
    (accessing copied (.rdObuf 12)).hostMovesNext ∧ ∃ t, step (accessing copied (.rdObuf 12)) = .next t :=
  ⟨accessing_hostMovesNext yuvx_idle _, ⟨_, rfl⟩, interrupted_hostMovesNext _ _, ⟨_, rfl⟩,
    accessing_hostMovesNext yuvx_idle _, ⟨_, rfl⟩, accessing_hostMovesNext copied_idle _, ⟨_, rfl⟩⟩

theorem witness_PollRepeatsWhileBusy :
    (accessing yuvx .poll).hostMovesNext ∧ (accessing yuvx .poll).host = [.poll] ∧
    (interrupted yuvx .poll).hostMovesNext ∧ (interrupted yuvx .poll).host = [.poll] :=
  ⟨accessing_hostMovesNext yuvx_idle _, rfl, interrupted_hostMovesNext _ _, rfl⟩

theorem fullInput_checks : fullInput.ChecksOneToFour .rgb565 ∧ fullInput.ibufLen.toNat = 64 :=
  ⟨⟨by decide, by decide, by decide, by decide⟩, by decide⟩

theorem yuvx_checks : yuvx.ChecksOneToFour .yuvx ∧ yuvx.CheckFive :=
  ⟨⟨by decide, by decide, by decide, by decide⟩, by unfold State.CheckFive; decide⟩

theorem yuv422_checks : yuv422.ChecksOneToFour .uyvy422 ∧ yuv422.CheckFive :=
  ⟨⟨by decide, by decide, by decide, by decide⟩, by unfold State.CheckFive; decide⟩

theorem witness_NoneCopiesTheInput :
    fullInput.ChecksOneToFour .rgb565 ∧ ¬ fullInput.ChecksOneToFour .rgb888 ∧
    ¬ { fullInput with ibufLen := 65 }.ChecksOneToFour .rgb565 :=
  ⟨fullInput_checks.1, fun h => absurd h.2.1 (by decide), fun h => absurd h.2.2.1 (by decide)⟩

theorem witness_SwapExchangesBytesZeroAndTwo :
    yuvx.ChecksOneToFour .yuvx ∧ yuvx.CheckFive ∧ yuv422.ChecksOneToFour .uyvy422 ∧ yuv422.CheckFive ∧
    2 < yuvx.ibufLen.toNat / 4 ∧ ¬ (yuvx.ChecksOneToFour .uyvy422 ∧ yuvx.CheckFive) ∧
    ¬ ({ yuv422 with width := 1, height := 2 }.ChecksOneToFour .uyvy422 ∧
      { yuv422 with width := 1, height := 2 }.CheckFive) ∧
    PixelFormatTag.vuyx ≠ .yuvx ∧ PixelFormatTag.vuyx ≠ .uyvy422 :=
  ⟨yuvx_checks.1, yuvx_checks.2, yuv422_checks.1, yuv422_checks.2, by decide,
    fun h => absurd h.1.2.1 (by decide), fun h => absurd h.2 (by unfold State.CheckFive; decide), by decide, by decide⟩

theorem witness_RgbOutputIsRedGreenBlue :
    fullInput.params.ok = true ∧ fullInput.ChecksOneToFour .rgb565 ∧ 31 < fullInput.ibufLen.toNat / 2 ∧
    ¬ yuvx.ChecksOneToFour .rgb565 ∧ PixelFormatTag.bgr888 ≠ .rgb565 :=
  ⟨by decide, fullInput_checks.1, by decide, fun h => absurd h.2.1 (by decide), by decide⟩

theorem witness_BgrOutputIsBlueGreenRed :
    fullInput.params.ok = true ∧ fullInput.ChecksOneToFour .rgb565 ∧ 31 < fullInput.ibufLen.toNat / 2 ∧
    ¬ yuvx.ChecksOneToFour .rgb565 ∧ PixelFormatTag.bgr888 ≠ .rgb565 ∧
    ∃ t u, exec (.rgb565ToRgb888 .rgb565) (loaded [0x34, 0x12] 1 1 2 0) = .next t ∧
      exec (.rgb565ToBgr888 .rgb565) (loaded [0x34, 0x12] 1 1 2 0) = .next u ∧ t.done = true :=
  ⟨by decide, fullInput_checks.1, by decide, fun h => absurd h.2.1 (by decide), by decide, _, _, rfl, rfl, by decide⟩

theorem witness_TranscoderFrame :
    (∃ t, exec (.none .yuvx) yuvx = .next t ∧ t.done = true ∧ t.obufLen.toNat ≤ 12) ∧
    (∃ t, exec (.swapCh0Ch2 .yuvx) yuvx = .next t ∧ t.done = true) ∧
    (∃ t, exec (.rgb565ToRgb888 .yuvx) yuvx = .next t ∧ t.done = false) ∧
    (∃ t, exec (.rgb565ToBgr888 .rgb565) yuvx = .next t ∧ t.done = false) ∧ yuvx.params.ok = true :=
  ⟨⟨_, rfl, by decide, by decide⟩, ⟨_, rfl, by decide⟩, ⟨_, rfl, by decide⟩, ⟨_, rfl, by decide⟩, by decide⟩

theorem witness_GeometryProductsDoNotWrap :
    2 ^ 32 ≤ (loaded [] 0x10000 0x10000 1 0).height.toNat * (loaded [] 0x10000 0x10000 1 0).width.toNat *
      (loaded [] 0x10000 0x10000 1 0).channels.toNat := by decide

theorem witness_SwapIsAnInvolution :
    yuvx.inputBytes.length % 4 = 0 ∧
    (∃ t, exec (.swapCh0Ch2 .yuvx) yuvx = .next t ∧ t.done = true ∧
      ∀ i, i < yuvx.ibufLen.toNat → { yuvx with ibuf := t.obuf }.ibuf.read i = t.obuf.read i) ∧
    ∃ t, exec (.swapCh0Ch2 .uyvy422) yuv422 = .next t ∧ t.done = true :=
  ⟨by decide, ⟨_, rfl, by decide, fun _ _ => rfl⟩, _, rfl, by decide⟩

theorem witness_SwapIgnoresTheLeadingDimensions :
    { yuvx with width := 1, height := 3 }.ibufLen = yuvx.ibufLen ∧
    (∀ i, i < yuvx.ibufLen.toNat → { yuvx with width := 1, height := 3 }.bufByte .ibuf i = yuvx.bufByte .ibuf i) ∧
    ∃ t v, exec (.swapCh0Ch2 .yuvx) yuvx = .next t ∧ t.done = true ∧
      exec (.swapCh0Ch2 .yuvx) { yuvx with width := 1, height := 3 } = .next v ∧ v.done = true :=
  ⟨rfl, fun _ _ => rfl, _, _, rfl, by decide, rfl, by decide⟩

theorem witness_TranscoderDependsOnItsInputsOnly :
    { yuvx with result := 7, draws := 5, cklen := 0 }.ibufLen = yuvx.ibufLen ∧
    { yuvx with result := 7, draws := 5, cklen := 0 }.params = yuvx.params ∧
    (∀ a, a < yuvx.ibufLen.toNat →
      { yuvx with result := 7, draws := 5, cklen := 0 }.bufByte .ibuf a = yuvx.bufByte .ibuf a) ∧
    ∃ t, exec (.swapCh0Ch2 .yuvx) yuvx = .next t ∧ t.done = true :=
  ⟨rfl, rfl, by decide, _, rfl, by decide⟩

theorem witness_OutputFitsTheOutputBuffer :
    fullInput.params.ok = true ∧ (∃ t, exec (.none .yuvx) yuvx = .next t ∧ t.done = true) ∧
    (∃ t, exec (.swapCh0Ch2 .uyvy422) yuv422 = .next t ∧ t.done = true) ∧
    (∃ t, exec (.rgb565ToRgb888 .rgb565) (loaded [0x34, 0x12] 1 1 2 0) = .next t ∧ t.done = true) ∧
    ∃ t, exec (.rgb565ToBgr888 .rgb565) (loaded [0x34, 0x12] 1 1 2 0) = .next t ∧ t.done = true :=
  ⟨by decide, ⟨_, rfl, by decide⟩, ⟨_, rfl, by decide⟩, ⟨_, rfl, by decide⟩, _, rfl, by decide⟩

theorem witness_ChecksumIsTheSpecFold :
    ((fullInput.bufLen .ibuf).toNat = fullInput.bufCap .ibuf ∧ fullInput.cklen.toNat = (fullInput.bufLen .ibuf).toNat) ∧
    (copied.bufLen .obuf).toNat ≤ copied.bufCap .obuf ∧ copied.cklen.toNat ≤ (copied.bufLen .obuf).toNat ∧
    (yuv422.bufLen .ibuf).toNat < { yuv422 with cklen := 5 }.cklen.toNat ∧
    { yuv422 with ibufLen := 65 }.bufCap .ibuf < ({ yuv422 with ibufLen := 65 }.bufLen .ibuf).toNat :=
  ⟨⟨by decide, by decide⟩, by decide, by decide, by decide, by decide⟩

theorem witness_ChecksumOfZeroWords :
    State.reset.cklen.toNat ≤ 1 ∧ State.reset.cklen.toNat ≤ (State.reset.bufLen .obuf).toNat ∧
    (State.reset.bufLen .obuf).toNat ≤ State.reset.bufCap .obuf ∧
    { yuvx with cklen := 1 }.cklen.toNat ≤ 1 ∧ 1 ≤ (yuvx.bufLen .ibuf).toNat ∧
    (yuvx.bufLen .ibuf).toNat ≤ yuvx.bufCap .ibuf := by decide

theorem witness_ChecksumDependsOnSubmittedWordsOnly :
    { yuvx with cks := ⟨9, 9, 9⟩, result := 7 }.cklen = yuvx.cklen ∧
    (∀ a, a < 2 * (yuvx.cklen.toNat / 2) →
      { yuvx with cks := ⟨9, 9, 9⟩, result := 7 }.bufByte .ibuf a = yuvx.bufByte .ibuf a) ∧
    ∃ t v, exec (.checksum .ibuf) yuvx = .next t ∧
      exec (.checksum .ibuf) { yuvx with cks := ⟨9, 9, 9⟩, result := 7 } = .next v ∧ t.done = true ∧ v.done = true :=
  ⟨rfl, fun _ _ => rfl, _, _, rfl, rfl, by decide, by decide⟩

theorem witness_AccumulatorBounds : 2 ≤ [(1 : Byte), 2].length ∧ 4 ≤ [(1 : Byte), 2, 3, 4].length := by decide

theorem witness_OddLengthsKeepTheirOwnSeed :
    yuvx.cklen.toNat % 2 = 1 ∧ (∃ t, exec (.checksum .ibuf) yuvx = .next t ∧ t.done = true) ∧
    (∃ t u, exec (.checksum .ibuf) { yuvx with cklen := 1 } = .next t ∧ t.done = true ∧
      exec (.checksum .ibuf) { yuvx with cklen := 0 } = .next u) ∧
    (∃ t u, exec (.checksum .ibuf) { yuvx with cklen := 3 } = .next t ∧ t.done = true ∧
      exec (.checksum .ibuf) { yuvx with cklen := 2 } = .next u) ∧
    (∀ a, a < 4 → (loaded [0, 0, 0, 0, 9] 0 0 0 5).bufByte .ibuf a = 0) ∧
    ∃ t u, exec (.checksum .ibuf) { loaded [0, 0, 0, 0, 9] 0 0 0 5 with cklen := 5 } = .next t ∧ t.done = true ∧
      exec (.checksum .ibuf) { loaded [0, 0, 0, 0, 9] 0 0 0 5 with cklen := 4 } = .next u :=
  ⟨by decide, ⟨_, rfl, by decide⟩, ⟨_, _, rfl, by decide, rfl⟩, ⟨_, _, rfl, by decide, rfl⟩, by decide,
    _, _, rfl, by decide, rfl⟩

theorem witness_ChecksumFrame :
    (∃ t, exec (.checksum .ibuf) yuvx = .next t ∧ t.done = true) ∧
    ∃ t, exec (.checksum .obuf) yuvx = .next t ∧ t.done = false :=
  ⟨⟨_, rfl, by decide⟩, _, rfl, by decide⟩

theorem witness_ChecksumOfACopyIsTheChecksumOfTheInput :
    yuvx.params.ok = true ∧ (∃ t, exec (.none .yuvx) yuvx = .next t ∧ t.done = true) ∧
    (12 : Word).toNat ≤ yuvx.ibufLen.toNat :=
  ⟨by decide, ⟨_, rfl, by decide⟩, by decide⟩

/-- The state a step answers, `s` itself where it answers none. -/
def after (s : State) : State :=
  match step s with
  | .next t => t
  | .fault _ => s
  | .refused _ => s

theorem leavesOutput_of_host {u v : State} {a : HostAccess} {rest : List HostAccess} (hb : u.busy = false)
    (hh : u.host = a :: rest) (ha : a ≠ .reset) : u.LeavesOutput v :=
  ⟨by rintro ⟨_, r, h⟩; rw [hh] at h; injection h with h; exact ha h, fun h => absurd h.1.1 (by simp [hb])⟩

theorem leavesOutput_of_word {u v : State} {d : Decoded} (hh : u.host.head? ≠ some .reset) (hd : decode u.lcmd = d)
    (hi : ∀ i, d = .command i → ∃ b, i = .checksum b) : u.LeavesOutput v :=
  ⟨by rintro ⟨_, r, h⟩; simp [h] at hh, by
    rintro ⟨_, _, i, h, hn⟩
    obtain ⟨b, rfl⟩ := hi i (hd.symm.trans h)
    exact hn b rfl⟩

/-- A swap in flight with a `CHECKSUM IBUF`, an illegal command and the launch of `CHECKSUM OBUF` to come. -/
def swapping : State :=
  { yuvx.placeCommand 0x01 with host := [.wr 0x18 8, .wr 0x00 0x04, .wr 0x00 0x05, .wr 0x18 12, .wr 0x00 0x84] }

/-- The end of that swap. -/
def swapped : State := after swapping

theorem witness_ChecksumReadsTheLastTranscoderOutput :
    swapping.params.ok = true ∧ swapping.blockMovesNext ∧ decode swapping.lcmd = .command (.swapCh0Ch2 .yuvx) ∧
    step swapping = .next swapped ∧ swapped.done = true ∧
    ∃ v, OutputKept swapped v ∧ v.blockMovesNext ∧ v.lcmd = encode (.checksum .obuf) ∧
      v.cklen.toNat = swapped.obufLen.toNat := by
  refine ⟨by decide, ⟨by decide, .inl (by decide)⟩, by decide, rfl, by decide,
    after (after (after (after (after (after (after swapped)))))),
    ((((((OutputKept.refl.next rfl ?_).next rfl ?_).next rfl ?_).next rfl ?_).next rfl ?_).next rfl ?_).next rfl ?_,
    ⟨by decide, .inl (by decide)⟩, by decide, by decide⟩
  · exact leavesOutput_of_host (by decide) rfl (by decide)
  · exact leavesOutput_of_host (by decide) rfl (by decide)
  · exact leavesOutput_of_word (by decide) (d := .command (.checksum .ibuf)) (by decide)
      fun i h => ⟨.ibuf, by injection h with h; exact h.symm⟩
  · exact leavesOutput_of_host (by decide) rfl (by decide)
  · exact leavesOutput_of_word (by decide) (d := .illegal .reservedOpc) (by decide) fun i h => by cases h
  · exact leavesOutput_of_host (by decide) rfl (by decide)
  · exact leavesOutput_of_host (by decide) rfl (by decide)

theorem witness_EveryCommandEndsWithDoneOrErr :
    (yuvx.placeCommand 0x01).blockMovesNext ∧ (yuvx.placeCommand 0xFFFFFFFF).blockMovesNext :=
  ⟨⟨by decide, .inr rfl⟩, ⟨by decide, .inr rfl⟩⟩

theorem witness_IllegalCommandExactlyForIllegalWords :
    (yuvx.placeCommand 0x08).blockMovesNext ∧
    (∃ t, step (yuvx.placeCommand 0x08) = .next t ∧ t.err = true ∧ t.ecode = 3) ∧
    ∃ t, step (yuvx.placeCommand 0x84) = .next t ∧ t.ecode ≠ 3 :=
  ⟨⟨by decide, .inr rfl⟩, ⟨_, rfl, by decide, by decide⟩, _, rfl, by decide⟩

theorem witness_UnsupportedFormatExactlyForSeventeenWords :
    (yuvx.placeCommand 0x61).blockMovesNext ∧
    ∃ t, step (yuvx.placeCommand 0x61) = .next t ∧ t.err = true ∧ t.ecode = 2 :=
  ⟨⟨by decide, .inr rfl⟩, _, rfl, by decide, by decide⟩

theorem witness_InvalidGeometryExactlyForItsCauses :
    yuvx.obufLen.toNat ≤ yuvx.params.obufCap ∧
    (∃ t, exec (.swapCh0Ch2 .uyvy422) yuvx = .next t ∧ t.err = true ∧ t.ecode = 1) ∧
    (∃ t, exec (.checksum .obuf) yuvx = .next t ∧ t.err = true ∧ t.ecode = 1) ∧
    ∃ t, exec (.none .yuvx) yuvx = .next t ∧ t.err = false :=
  ⟨by decide, ⟨_, rfl, by decide, by decide⟩, ⟨_, rfl, by decide, by decide⟩, _, rfl, by decide⟩

theorem test_no_command (i : Instr) : decode (yuvx.placeCommand 0x14).lcmd ≠ .command i := by
  have h : decode (yuvx.placeCommand 0x14).lcmd = .illegal .fmtInFormatK := by decide
  rw [h]
  simp

theorem witness_FirstApplyingErrorIsReported :
    (yuvx.placeCommand 0x14).blockMovesNext ∧ (∃ t, step (yuvx.placeCommand 0x14) = .next t) ∧
    (∀ i, decode (yuvx.placeCommand 0x14).lcmd ≠ .command i) ∧
    (decode (yuvx.placeCommand 0x11).lcmd = .command (.swapCh0Ch2 .vuyx) ∧ formatAccepted (.swapCh0Ch2 .vuyx) = false) ∧
    (decode (yuvx.placeCommand 0x21).lcmd = .command (.swapCh0Ch2 .uyvy422) ∧
      formatAccepted (.swapCh0Ch2 .uyvy422) = true ∧
      ¬ (yuvx.placeCommand 0x21).OperandChecks (.swapCh0Ch2 .uyvy422)) ∧
    decode (yuvx.placeCommand 0x01).lcmd = .command (.swapCh0Ch2 .yuvx) ∧
    (yuvx.placeCommand 0x01).OperandChecks (.swapCh0Ch2 .yuvx) :=
  ⟨⟨by decide, .inr rfl⟩, ⟨_, rfl⟩, test_no_command, ⟨by decide, by decide⟩,
    ⟨by decide, by decide, fun h => absurd h.1.2.1 (by decide)⟩, by decide, yuvx_checks⟩

theorem witness_FailureWritesStatusAndNothingElse :
    (yuvx.placeCommand 0x61).blockMovesNext ∧
    (∃ t, step (yuvx.placeCommand 0x61) = .next t ∧ t.err = true ∧ t.ecode = 2) ∧
    ∃ t, step (yuvx.placeCommand 0x14) = .next t ∧ t.err = true ∧ t.ecode ≠ 2 :=
  ⟨⟨by decide, .inr rfl⟩, ⟨_, rfl, by decide, by decide⟩, _, rfl, by decide, by decide⟩

theorem witness_OutcomeDoesNotDependOnBufferContents :
    (yuvx.placeCommand 0x01).blockMovesNext ∧ ({ yuvx with ibuf := [] }.placeCommand 0x01).blockMovesNext ∧
    ({ yuvx with ibuf := [] }.placeCommand 0x01).ibufLen = (yuvx.placeCommand 0x01).ibufLen ∧
    (∃ t, step (yuvx.placeCommand 0x01) = .next t) ∧ ∃ t, step ({ yuvx with ibuf := [] }.placeCommand 0x01) = .next t :=
  ⟨⟨by decide, .inr rfl⟩, ⟨by decide, .inr rfl⟩, rfl, ⟨_, rfl⟩, _, rfl⟩

theorem witness_ErrorRecordStaysUntilTheNextLaunch :
    (accessing copied (.wr 0x08 1)).busy = false ∧ (∃ t, step (accessing copied (.wr 0x08 1)) = .next t) ∧
    (∀ v rest, (accessing copied (.wr 0x08 1)).host ≠ .wr 0x00 v :: rest) ∧
    (∀ rest, (accessing copied (.wr 0x08 1)).host ≠ .reset :: rest) ∧
    (accessing copied (.wr 0x00 1)).host = [.wr 0x00 1] ∧
    ∃ t, exec (.swapCh0Ch2 .uyvy422) yuvx = .next t ∧ t.err = true :=
  ⟨by decide, ⟨_, rfl⟩, by simp [accessing], by simp [accessing], rfl, _, rfl, by decide⟩

theorem witness_ResetGivesTheSpecifiedValues :
    (State.reset = State.reset ∨ ∃ p, State.reset = State.resetOf p) ∧
    (State.resetOf smallParams = State.reset ∨ ∃ p, State.resetOf smallParams = State.resetOf p) :=
  ⟨.inl rfl, .inr ⟨_, rfl⟩⟩

theorem witness_ResetAbandonsTheCommandInFlight :
    (interrupted copied .reset).hostMovesNext ∧ (interrupted copied .reset).host = [.reset] ∧
    (interrupted copied .reset).busy = true ∧ (accessing copied .reset).hostMovesNext :=
  ⟨interrupted_hostMovesNext _ _, rfl, by decide, accessing_hostMovesNext copied_idle _⟩

theorem witness_HiddenStateIsNeverObserved :
    SameUpToHidden (accessing yuvx (.rd 0x20))
      { accessing yuvx (.rd 0x20) with cks := ⟨1, 2, 3⟩, lcmd := 9, ofmt := 5, result := 6 } ∧
    (∃ t, step (accessing yuvx (.rd 0x20)) = .next t) ∧
    SameUpToHidden (accessing yuvx (.wrObuf 0 0)) { accessing yuvx (.wrObuf 0 0) with cks := ⟨1, 2, 3⟩ } ∧
    step (accessing yuvx (.wrObuf 0 0)) = .refused .hostWriteToObuf :=
  ⟨⟨rfl, fun h => absurd h (by decide), fun h => absurd h (by decide), fun h => absurd h (by decide)⟩, ⟨_, rfl⟩,
    ⟨rfl, fun _ => rfl, fun _ => rfl, fun _ => rfl⟩, rfl⟩

theorem witness_InvariantHoldsAtReset : Params.ok ⟨1, 1, 2⟩ = true ∧ smallParams.ok = true := by decide

/-- The invariant holds in a state in which a command runs. -/
theorem witness_StepKeepsTheInvariant :
    Inv (yuvx.placeCommand 0x01) ∧ ∃ t, step (yuvx.placeCommand 0x01) = .next t := by
  refine ⟨⟨by decide, ⟨by decide, by decide, by decide, by decide, by decide, by decide⟩, by decide, by decide, ?_, by decide,
    fun i => ?_, by decide, by decide, fun _ => rfl⟩, _, rfl⟩
  · intro i hi
    have h64 : (64 : Nat) ≤ i := hi
    simp only [yuvx, loaded, State.placeCommand, State.launch, Memory.ofBytes, Memory.ofBytesAt, Memory.read]
    repeat rw [if_neg (by omega)]
  · simp [yuvx, loaded, State.placeCommand, State.launch, State.resetOf, Memory.read]

theorem witness_AllFlagsZeroOnlyBeforeTheFirstLaunch :
    (∃ t, step (accessing State.reset (.wr 0x08 1)) = .next t ∧ t.busy = false ∧ t.done = false ∧ t.err = false) ∧
    ∃ t, step (interrupted copied .reset) = .next t ∧ t.busy = false ∧ t.done = false ∧ t.err = false :=
  ⟨⟨_, rfl, by decide, by decide, by decide⟩, _, rfl, by decide, by decide, by decide⟩

theorem witness_OnlyTheHostWritesTheInputBuffer :
    (∃ t, step (accessing yuvx (.wrIbuf 63 1)) = .next t ∧ t.ibuf.read 63 ≠ (accessing yuvx (.wrIbuf 63 1)).ibuf.read 63) ∧
    ∃ t, step (accessing yuvx .reset) = .next t ∧ t.ibuf.read 0 ≠ (accessing yuvx .reset).ibuf.read 0 :=
  ⟨⟨_, rfl, by decide⟩, _, rfl, by decide⟩

theorem witness_ResultsAreWrittenOnlyBySuccessfulCommands :
    (∃ t, step (yuvx.placeCommand 0x01) = .next t ∧ t.obufLen ≠ (yuvx.placeCommand 0x01).obufLen ∧
      t.ofmt ≠ (yuvx.placeCommand 0x01).ofmt ∧ t.obuf.read 0 ≠ (yuvx.placeCommand 0x01).obuf.read 0) ∧
    (∃ t, step (yuvx.placeCommand 0x04) = .next t ∧ t.result ≠ (yuvx.placeCommand 0x04).result) ∧
    (¬ ((yuvx.placeCommand 0x01).hostMovesNext ∧ ∃ rest, (yuvx.placeCommand 0x01).host = .reset :: rest)) ∧
    ¬ ((yuvx.placeCommand 0x04).hostMovesNext ∧ ∃ rest, (yuvx.placeCommand 0x04).host = .reset :: rest) :=
  ⟨⟨_, rfl, by decide, by decide, by decide⟩, ⟨_, rfl, by decide⟩, fun h => h.1.1 rfl, fun h => h.1.1 rfl⟩

theorem witness_EveryLaunchedCommandEnds :
    (interrupted yuvx .poll).busy = true ∧ (∀ a ∈ (interrupted yuvx .poll).host, a.waits = true) ∧
    (interrupted yuvx (.rd 0x24)).busy = true ∧ ∀ a ∈ (interrupted yuvx (.rd 0x24)).host, a.waits = true := by decide

theorem witness_ParametersNeverChange : ∃ t, step (accessing yuvx .reset) = .next t := ⟨_, rfl⟩

end Sys2Proof.Tests
end

section
/-! The family of 00_scope.md: the outputs of a T command are a function of its named inputs (R7), and they fit OBUF
(R4, R59). -/

namespace Sys2Proof.Machine

/-- The four commands of format T are `transcode` with their own operation and body. -/
theorem exec_formatT {i : Instr} {fmt : PixelFormatTag}
    (hi : i = .none fmt ∨ i = .swapCh0Ch2 fmt ∨ i = .rgb565ToRgb888 fmt ∨ i = .rgb565ToBgr888 fmt) :
    ∃ op : TOp, ∀ s, exec i s = transcode op fmt op.body s := by
  rcases hi with rfl | rfl | rfl | rfl
  · exact ⟨.none, fun _ => rfl⟩
  · exact ⟨.swapCh0Ch2, fun _ => rfl⟩
  · exact ⟨.rgb565ToRgb888, fun _ => rfl⟩
  · exact ⟨.rgb565ToBgr888, fun _ => rfl⟩

/-- The input of a T command is fixed by `IBUF_LEN` and the bytes below it. -/
theorem inputBytes_congr {s u : State} (hl : u.ibufLen = s.ibufLen)
    (hb : ∀ a, a < s.ibufLen.toNat → u.bufByte .ibuf a = s.bufByte .ibuf a) : u.inputBytes = s.inputBytes := by
  unfold State.inputBytes
  rw [hl]
  exact State.bytesAt_congr fun k _ hk => hb k (by omega)

/-- A T command that ends with `DONE` passed both checks and stored its output. -/
theorem transcode_done {op : TOp} {fmt : PixelFormatTag} {body : List Byte → List Byte} {s t : State}
    (h : transcode op fmt body s = .next t) (hd : t.done = true) :
    ∃ tag, outTag op fmt = some tag ∧ geometryOk op fmt s = true ∧
      t = (s.storeOutput (body s.inputBytes) tag).complete := by
  rcases transcode_cases op fmt body s with ⟨_, h'⟩ | ⟨_, _, _, h'⟩ | ⟨tag, ht, hg, h'⟩ <;>
    (rw [h] at h'; injection h' with h')
  · simp [h'] at hd
  · simp [h'] at hd
  · exact ⟨tag, ht, hg, h'⟩

/-- Accepted registers describe at least one whole pixel position (R93). -/
theorem ibufLen_pos_and_stride_le {op : TOp} {fmt : PixelFormatTag} {s : State} (hg : geometryOk op fmt s = true) :
    1 ≤ s.ibufLen.toNat ∧ stride s.params fmt ≤ s.ibufLen.toNat := by
  obtain ⟨⟨hw, hh, hc⟩, hstride, _, hlen, _⟩ := (geometryOk_iff op fmt s).1 hg
  have : s.channels.toNat ≤ s.ibufLen.toNat := hlen ▸ Nat.le_mul_of_pos_left _ (Nat.mul_pos hh hw)
  omega

/-- An accepted command has output: the expansions accept RGB565 alone, whose stride is one whole sample. -/
theorem one_le_outLen {op : TOp} {fmt tag : PixelFormatTag} {s : State} (ht : outTag op fmt = some tag)
    (hg : geometryOk op fmt s = true) : 1 ≤ op.outLen s.ibufLen.toNat := by
  obtain ⟨hpos, hstride⟩ := ibufLen_pos_and_stride_le hg
  cases op with
  | none => exact hpos
  | swapCh0Ch2 => exact hpos
  | rgb565ToRgb888 | rgb565ToBgr888 =>
    cases fmt <;> simp only [outTag, reduceCtorEq] at ht
    simp only [stride, TOp.outLen] at hstride ⊢
    omega

/-- Settles O23: both checks and the body read the agreeing inputs only, so the two runs take the same branch of
`transcode` and store the same bytes. -/
theorem transcoderDependsOnItsInputsOnly : Obligations.TranscoderDependsOnItsInputsOnly := by
  intro i fmt s u hi hw hh hc hl hp hb
  obtain ⟨op, hexec⟩ := exec_formatT hi
  simp only [hexec]
  have hgeom : geometryOk op fmt u = geometryOk op fmt s := geometryOk_congr hw hh hc hl hp
  have hin : u.inputBytes = s.inputBytes := inputBytes_congr hl hb
  rcases transcode_cases op fmt op.body s with ⟨ht, hs⟩ | ⟨tag, ht, hg, hs⟩ | ⟨tag, ht, hg, hs⟩
  · exact ⟨_, _, hs, transcode_unsupported ht op.body u, by simp⟩
  · exact ⟨_, _, hs, transcode_badGeometry ht op.body (hgeom.trans hg), by simp⟩
  · exact ⟨_, _, hs, transcode_success ht op.body (hgeom.trans hg), by simp [hin]⟩

/-- Settles O24: the output's length is `outLen`, which the capacities of R4 bound, and OBUF lists the output and
nothing else. -/
theorem outputFitsTheOutputBuffer : Obligations.OutputFitsTheOutputBuffer := by
  intro i fmt s t hi hp h hd
  obtain ⟨op, hexec⟩ := exec_formatT hi
  obtain ⟨tag, ht, hg, rfl⟩ := transcode_done ((hexec s).symm.trans h) hd
  obtain ⟨_, _, hheld, _, _⟩ := (geometryOk_iff op fmt s).1 hg
  obtain ⟨hcap, hword⟩ := outLen_le_obufCap hp hheld op
  have hpos := one_le_outLen ht hg
  have hout : (op.body s.inputBytes).length = op.outLen s.ibufLen.toNat := by simp [TOp.body_length]
  have hlen : (s.storeOutput (op.body s.inputBytes) tag).complete.obufLen.toNat = op.outLen s.ibufLen.toNat := by
    rw [complete_obufLen, storeOutput_obufLen, hout, BitVec.toNat_ofNat, Nat.mod_eq_of_lt hword]
  rw [hlen]
  refine ⟨hpos, hcap, fun a ha => ?_, fun a ha => ?_⟩
  · simpa [Memory.read_ofBytes, hout] using hcap.trans ha
  · simpa [Memory.read_ofBytes, hout] using ha

end Sys2Proof.Machine
end

section
/-! The family of 10_state.md: what a step does to each element of the state, the block's invariant (R23, R28, R30 to
R33), and what stays hidden (R32 to R34, U3, U12). -/

namespace Sys2Proof.Machine

/-! ### What a step that answers a next state has done -/

/-- A step that answers a next state keeps the state of an idle block, performs the host's next access, or ends the
command in flight. -/
theorem step_next_cases {s t : State} (h : step s = .next t) :
    t = s ∨
    (∃ a rest, s.hostMovesNext ∧ s.host = a :: rest ∧ hostAccess a s.afterHostTurn = .next t) ∨
    (s.blockMovesNext ∧ endOfCommand s.afterBlockTurn = .next t) := by
  rcases step_cases s with ⟨_, _, hs⟩ | ⟨a, rest, hm, hh, hs⟩ | ⟨hm, hs⟩ <;> rw [h] at hs
  · injection hs with hs
    exact .inl hs
  · exact .inr (.inl ⟨a, rest, hm, hh, hs.symm⟩)
  · exact .inr (.inr ⟨hm, hs.symm⟩)

/-- The state in which a command has ended: failed, with the output of a T command, or with the result of `CHECKSUM`. -/
theorem endOfCommand_next_cases {s t : State} (h : endOfCommand s = .next t) :
    (∃ e g, (g ≠ 0 → e = .unsupportedFormat) ∧ t = s.fail e g) ∨
    (∃ i op fmt tag, decode s.lcmd = .command i ∧ (∀ b, i ≠ .checksum b) ∧ outTag op fmt = some tag ∧
      geometryOk op fmt s = true ∧ t = (s.storeOutput (op.body s.inputBytes) tag).complete) ∨
    (∃ b, decode s.lcmd = .command (.checksum b) ∧ checksumLengthOk b s = true ∧
      t = (s.storeResult (peacResult (peacRun s.cklen (checksumBytes b s)))
        (peacRun s.cklen (checksumBytes b s))).complete) := by
  rcases endOfCommand_cases s with ⟨e, g, hg, h'⟩ | ⟨i, op, fmt, tag, hd, hi, ht, hg, h'⟩ | ⟨b, hd, hl, h'⟩ <;>
    (rw [h] at h'; injection h' with h')
  · exact .inl ⟨e, g, hg, h'⟩
  · exact .inr (.inl ⟨i, op, fmt, tag, hd, hi, ht, hg, h'⟩)
  · exact .inr (.inr ⟨b, hd, hl, h'⟩)

/-- The two states differ at most in the operand registers and in the MODEL's own `draws`, `host`, `turns`, `rdata`. -/
def State.SameButOperands (s t : State) : Prop :=
  t = { s with
    width := t.width, height := t.height, channels := t.channels, ibufLen := t.ibufLen, cklen := t.cklen,
    draws := t.draws, host := t.host, turns := t.turns, rdata := t.rdata }

namespace State.SameButOperands

variable {s t : State} (e : s.SameButOperands t)
include e

theorem status_eq : t.status = s.status := by rw [e]
theorem obufLen_eq : t.obufLen = s.obufLen := by rw [e]
theorem ofmt_eq : t.ofmt = s.ofmt := by rw [e]
theorem result_eq : t.result = s.result := by rw [e]
theorem ibuf_eq : t.ibuf = s.ibuf := by rw [e]
theorem obuf_eq : t.obuf = s.obuf := by rw [e]
theorem params_eq : t.params = s.params := by rw [e]

end State.SameButOperands

theorem afterBlockTurn_sameButOperands (s : State) : s.SameButOperands s.afterBlockTurn := rfl

theorem afterHostTurn_sameButOperands (s : State) : s.SameButOperands s.afterHostTurn := by
  unfold State.afterHostTurn
  split <;> rfl

/-- The kinds of host access by what they may change: a launch, an IBUF write, a reset, and those that change no more than
an operand register and the MODEL's own fields (R142, R143, R145, R180). -/
theorem hostAccess_kinds {a : HostAccess} {s t : State} (h : hostAccess a s = .next t) :
    (∃ v, t = s.launch v) ∨
    (∃ i b, a = .wrIbuf i b ∧ i < s.params.ibufCap ∧ t = { s with ibuf := s.ibuf.write i b }) ∨
    (a = .reset ∧ t = s.assertReset) ∨ s.SameButOperands t := by
  rcases hostAccess_cases h with
    ⟨v, rfl⟩ | rfl | ⟨i, rfl⟩ | ⟨_, v, r, _, _, _, rfl⟩ | ⟨i, b, ha, hi, _, rfl⟩ | ⟨_, _, rfl⟩ | hreset
  case inr.inr.inr.inl =>
    cases r with
    | cmd => exact .inl ⟨v, rfl⟩
    | _ => exact .inr (.inr (.inr rfl))
  case inr.inr.inr.inr.inl => exact .inr (.inl ⟨i, b, ha, hi, rfl⟩)
  case inr.inr.inr.inr.inr.inr => exact .inr (.inr (.inl hreset))
  all_goals exact .inr (.inr (.inr rfl))

/-- `STATUS` changes at the host's hand only by a launch or a reset (R143, R180). -/
theorem hostAccess_status {a : HostAccess} {s t : State} (h : hostAccess a s = .next t) :
    t.status = s.status ∨ (∃ v, t = s.launch v) ∨ a = .reset := by
  rcases hostAccess_kinds h with hv | ⟨_, _, _, _, rfl⟩ | ⟨ha, _⟩ | e
  · exact .inr (.inl hv)
  · exact .inl rfl
  · exact .inr (.inr ha)
  · exact .inl e.status_eq

/-- IBUF changes at the host's hand only by a write of one of its bytes or a reset (R145, R180). -/
theorem hostAccess_ibuf {a : HostAccess} {s t : State} (h : hostAccess a s = .next t) :
    t.ibuf = s.ibuf ∨ (∃ i b, a = .wrIbuf i b ∧ t.ibuf = s.ibuf.write i b) ∨ a = .reset := by
  rcases hostAccess_kinds h with ⟨_, rfl⟩ | ⟨i, b, ha, _, rfl⟩ | ⟨ha, _⟩ | e
  · exact .inl rfl
  · exact .inr (.inl ⟨i, b, ha, rfl⟩)
  · exact .inr (.inr ha)
  · exact .inl e.ibuf_eq

/-- No host access but reset changes a result (R142, R180). -/
theorem hostAccess_results {a : HostAccess} {s t : State} (h : hostAccess a s = .next t) (hr : a ≠ .reset) :
    t.obuf = s.obuf ∧ t.obufLen = s.obufLen ∧ t.ofmt = s.ofmt ∧ t.result = s.result := by
  rcases hostAccess_kinds h with ⟨_, rfl⟩ | ⟨_, _, _, _, rfl⟩ | ⟨ha, _⟩ | e
  · simp
  · simp
  · exact absurd ha hr
  · exact ⟨e.obuf_eq, e.obufLen_eq, e.ofmt_eq, e.result_eq⟩

theorem hostAccess_params {a : HostAccess} {s t : State} (h : hostAccess a s = .next t) : t.params = s.params := by
  rcases hostAccess_kinds h with ⟨_, rfl⟩ | ⟨_, _, _, _, rfl⟩ | ⟨_, rfl⟩ | e
  · rfl
  · rfl
  · rfl
  · exact e.params_eq

/-- A command ends with `ERR` or with `DONE` (R144). -/
theorem endOfCommand_err_or_done {s t : State} (h : endOfCommand s = .next t) : t.err = true ∨ t.done = true := by
  rcases endOfCommand_next_cases h with ⟨e, g, _, rfl⟩ | ⟨_, _, _, _, _, _, _, _, rfl⟩ | ⟨_, _, _, rfl⟩
  · exact .inl (fail_err e g s)
  · exact .inr (complete_done _)
  · exact .inr (complete_done _)

/-- The end of a command changes neither IBUF nor the parameters (R30). -/
theorem endOfCommand_ibuf_params {s t : State} (h : endOfCommand s = .next t) :
    t.ibuf = s.ibuf ∧ t.params = s.params := by
  rcases endOfCommand_next_cases h with ⟨e, g, _, rfl⟩ | ⟨_, _, _, _, _, _, _, _, rfl⟩ | ⟨_, _, _, rfl⟩ <;>
    exact ⟨rfl, rfl⟩

/-- The three flags are functions of `STATUS`. -/
theorem flags_of_status_eq {s t : State} (h : t.status = s.status) :
    t.busy = s.busy ∧ t.done = s.done ∧ t.err = s.err := by
  simp [State.busy, State.done, State.err, h]

/-! ### The register map and the values after reset -/

theorem regAt_offset (r : Reg) : regAt r.offset = some r := by
  cases r <;> rfl

theorem offset_of_regAt {off : Nat} {r : Reg} (h : regAt off = some r) : r.offset = off := by
  unfold regAt at h
  split at h <;> cases h <;> rfl

/-- Settles O51: `regAt` inverts `Reg.offset`. -/
theorem registerMapHasTenRegisters : Obligations.RegisterMapHasTenRegisters :=
  ⟨by decide, fun _ _ => ⟨offset_of_regAt, fun h => h ▸ regAt_offset _⟩⟩

@[simp] theorem resetOf_status (p : Params) : (State.resetOf p).status = 0 := rfl

theorem resetOf_statusFields (p : Params) :
    (State.resetOf p).busy = false ∧ (State.resetOf p).done = false ∧ (State.resetOf p).err = false ∧
      (State.resetOf p).ecode = 0 ∧ (State.resetOf p).etag = 0 := by
  simp only [State.busy, State.done, State.err, State.ecode, State.etag, resetOf_status]
  decide

/-- Settles O41: the values `State.resetOf` gives, of which `State.reset` is a case. -/
theorem resetGivesTheSpecifiedValues : Obligations.ResetGivesTheSpecifiedValues := by
  intro s hs
  obtain ⟨p, rfl⟩ : ∃ p, s = State.resetOf p := hs.elim (fun h => ⟨_, h⟩) id
  obtain ⟨hb, hd, he, hc, ht⟩ := resetOf_statusFields p
  exact ⟨rfl, rfl, hb, hd, he, hc, ht, rfl, rfl, rfl, rfl, rfl, rfl, rfl, rfl, fun _ => rfl, fun _ => rfl⟩

/-! ### The invariant -/

/-- The invariant speaks of `CMD`, `STATUS`, `OBUF_LEN`, `OFMT`, the buffers, `Y`, `LCMD` and the parameters alone. -/
theorem Inv.of_sameButOperands {s t : State} (h : Inv s) (e : s.SameButOperands t) : Inv t := by
  rw [e]
  exact ⟨h.paramsOk, statusInv_of_eq h.statusInv rfl, h.ofmtIsTag, h.ibufWf, h.ibufWithin, h.obufWf, h.obufExact,
    h.obufFits, h.yBound, h.latched⟩

theorem statusInv_resetOf (p : Params) : StatusInv (State.resetOf p) := by
  constructor <;>
    simp only [State.busy, State.done, State.err, State.ecode, State.etag, resetOf_status] <;> decide

/-- The invariant holds after reset. That `OFMT` is a tag code and `Y` within its bound rests there on the zeros of log 3
and log 4. -/
theorem inv_resetOf {p : Params} (hp : p.ok = true) : Inv (State.resetOf p) where
  paramsOk := hp
  statusInv := statusInv_resetOf p
  ofmtIsTag := Nat.zero_le 6
  ibufWf := rfl
  ibufWithin _ _ := rfl
  obufWf := rfl
  obufExact i := iff_of_true rfl (Nat.zero_le i)
  obufFits := Nat.zero_le _
  yBound := Nat.zero_le _
  latched _ := rfl

/-- Settles O44: `State.reset` is `State.resetOf` at parameters that R4 admits. -/
theorem invariantHoldsAtReset : Obligations.InvariantHoldsAtReset :=
  ⟨inv_resetOf (p := .default) (by decide), fun _ => inv_resetOf⟩

section Preservation

variable {s : State} (h : Inv s)
include h

theorem Inv.assertReset : Inv s.assertReset :=
  (inv_resetOf h.paramsOk).of_sameButOperands rfl

/-- A launch latches the word it writes to `CMD` (R143). -/
theorem Inv.launch (v : Word) : Inv (s.launch v) :=
  { h with statusInv := launch_statusInv v s, latched := fun _ => rfl }

theorem Inv.writeIbuf {i : Nat} (hi : i < s.params.ibufCap) (b : Byte) : Inv { s with ibuf := s.ibuf.write i b } :=
  { h with
    statusInv := statusInv_of_eq h.statusInv rfl
    ibufWf := Memory.write_wf h.ibufWf i b
    ibufWithin := fun j hj => by
      have hj : s.params.ibufCap ≤ j := hj
      exact (Memory.read_write_other s.ibuf b (by omega)).trans (h.ibufWithin j hj) }

theorem Inv.fail {e : ErrorKind} {g : BitVec 3} (hg : g ≠ 0 → e = .unsupportedFormat) : Inv (s.fail e g) :=
  { h with statusInv := fail_statusInv hg s, latched := by simp }

theorem Inv.complete : Inv s.complete :=
  { h with statusInv := complete_statusInv s, latched := by simp }

end Preservation

/-- `X + w` does not exceed `0x1FFFE` whatever `X` and `w` are, so one word is enough to bound `Y` (R127). -/
theorem foldl_peacStep_y_le (ws : List Half) {a : ChecksumState} (ha : a.y.toNat ≤ 0x1FFFE) :
    (ws.foldl peacStep a).y.toNat ≤ 0x1FFFE := by
  induction ws generalizing a with
  | nil => exact ha
  | cons w ws ih =>
    have hx := a.x.isLt
    have hw := w.isLt
    obtain ⟨_, hy, _⟩ := peacStep_toNat a w
    exact ih (by omega)

theorem peacRun_y_le (len : Word) (bs : List Byte) : (peacRun len bs).y.toNat ≤ 0x1FFFE :=
  foldl_peacStep_y_le (wordsOf bs) (a := peacInit len) (by rw [peacInit_y]; decide)

/-- A tag code stored in `OFMT` is at most 6 (R28, R73). -/
theorem code_word_le (tag : PixelFormatTag) : (tag.code.setWidth 32 : Word).toNat ≤ 6 := by
  cases tag <;> decide

/-- The length of an accepted command's output fits `OBUF_LEN` without loss, and OBUF (R4). -/
theorem storeOutput_length_fits {s : State} (hp : s.params.ok = true) {op : TOp} {fmt : PixelFormatTag}
    (hg : geometryOk op fmt s = true) (tag : PixelFormatTag) :
    (s.storeOutput (op.body s.inputBytes) tag).obufLen.toNat = (op.body s.inputBytes).length ∧
      (op.body s.inputBytes).length ≤ s.params.obufCap := by
  obtain ⟨_, _, hheld, _, _⟩ := (geometryOk_iff op fmt s).1 hg
  obtain ⟨hcap, hword⟩ := outLen_le_obufCap hp hheld op
  have hlen : (op.body s.inputBytes).length = op.outLen s.ibufLen.toNat := by simp [TOp.body_length]
  rw [storeOutput_obufLen, BitVec.toNat_ofNat, hlen, Nat.mod_eq_of_lt hword]
  exact ⟨rfl, hcap⟩

section CommandsKeepTheInvariant

variable {s : State} (h : Inv s)
include h

/-- The output of an accepted command is a canonical memory of exactly `OBUF_LEN` bytes, within the capacity, and its tag
is a tag code (R28, R31). -/
theorem Inv.storeOutput {op : TOp} {fmt : PixelFormatTag} (hg : geometryOk op fmt s = true) (tag : PixelFormatTag) :
    Inv (s.storeOutput (op.body s.inputBytes) tag) := by
  obtain ⟨hlen, hcap⟩ := storeOutput_length_fits h.paramsOk hg tag
  exact { h with
    statusInv := statusInv_of_eq h.statusInv rfl
    ofmtIsTag := code_word_le tag
    obufWf := Memory.ofBytes_wf _
    obufExact := fun i => by rw [hlen, storeOutput_obuf, Memory.read_ofBytes, List.getElem?_eq_none_iff]
    obufFits := hlen.trans_le hcap }

theorem Inv.storeResult (v : Word) {c : ChecksumState} (hc : c.y.toNat ≤ 0x1FFFE) : Inv (s.storeResult v c) :=
  { h with statusInv := statusInv_of_eq h.statusInv rfl, yBound := hc }

/-- The end of a command keeps the invariant, whichever way the command ends. -/
theorem Inv.endOfCommand {t : State} (ht : endOfCommand s = .next t) : Inv t := by
  rcases endOfCommand_next_cases ht with ⟨e, g, hg, rfl⟩ | ⟨_, op, _, tag, _, _, _, hg, rfl⟩ | ⟨b, _, _, rfl⟩
  · exact h.fail hg
  · exact (h.storeOutput hg tag).complete
  · exact (h.storeResult _ (peacRun_y_le _ _)).complete

/-- A host access keeps the invariant. -/
theorem Inv.hostAccess {a : HostAccess} {t : State} (ht : hostAccess a s = .next t) : Inv t := by
  rcases hostAccess_kinds ht with ⟨v, rfl⟩ | ⟨i, b, _, hi, rfl⟩ | ⟨_, rfl⟩ | e
  · exact h.launch v
  · exact h.writeIbuf hi b
  · exact h.assertReset
  · exact h.of_sameButOperands e

end CommandsKeepTheInvariant

/-- Settles O45: each of the three kinds of step keeps the invariant. -/
theorem stepKeepsTheInvariant : Obligations.StepKeepsTheInvariant := by
  intro s t h hs
  rcases step_next_cases hs with rfl | ⟨a, rest, _, _, ha⟩ | ⟨_, he⟩
  · exact h
  · exact (h.of_sameButOperands (afterHostTurn_sameButOperands s)).hostAccess ha
  · exact Inv.endOfCommand (h.of_sameButOperands (afterBlockTurn_sameButOperands s)) he

/-! ### What changes the flags, IBUF, the results and the parameters -/

/-- Settles O46: a host access that leaves all flags 0 is no launch, and the end of a command sets one. -/
theorem allFlagsZeroOnlyBeforeTheFirstLaunch : Obligations.AllFlagsZeroOnlyBeforeTheFirstLaunch := by
  intro s t hs hb hd he
  rcases step_next_cases hs with rfl | ⟨a, rest, hm, hh, ha⟩ | ⟨_, hend⟩
  · exact .inl ⟨hb, hd, he⟩
  · rcases hostAccess_status ha with hst | ⟨v, rfl⟩ | rfl
    · obtain ⟨eb, ed, ee⟩ := flags_of_status_eq (hst.trans (afterHostTurn_status s))
      exact .inl ⟨eb ▸ hb, ed ▸ hd, ee ▸ he⟩
    · simp at hb
    · exact .inr ⟨hm, rest, hh⟩
  · rcases endOfCommand_err_or_done hend with h | h
    · simp [he] at h
    · simp [hd] at h

/-- Settles O47: the end of a command keeps IBUF, and the host's write of one byte keeps the others. -/
theorem onlyTheHostWritesTheInputBuffer : Obligations.OnlyTheHostWritesTheInputBuffer := by
  intro s t x hs hne
  rcases step_next_cases hs with rfl | ⟨a, rest, hm, hh, ha⟩ | ⟨_, hend⟩
  · exact absurd rfl hne
  · rcases hostAccess_ibuf ha with hi | ⟨i, b, rfl, hi⟩ | rfl
    · exact absurd (by rw [hi, afterHostTurn_ibuf]) hne
    · have hx : x = i := by
        by_contra hx
        exact hne (by rw [hi, afterHostTurn_ibuf, Memory.read_write_other _ _ hx])
      exact ⟨hm, .inl ⟨b, rest, hx ▸ hh⟩⟩
    · exact ⟨hm, .inr ⟨rest, hh⟩⟩
  · exact absurd (by rw [(endOfCommand_ibuf_params hend).1, afterBlockTurn_ibuf]) hne

/-- Settles O48: no host access but reset changes a result, a failed command changes none, a T command keeps `RESULT`,
and `CHECKSUM` keeps the others. -/
theorem resultsAreWrittenOnlyBySuccessfulCommands : Obligations.ResultsAreWrittenOnlyBySuccessfulCommands := by
  intro s t hs hnr
  rcases step_next_cases hs with rfl | ⟨a, rest, hm, hh, ha⟩ | ⟨hm, hend⟩
  · simp
  · have hr : a ≠ .reset := fun h => hnr ⟨hm, rest, h ▸ hh⟩
    obtain ⟨ho, hl, hf, hv⟩ := hostAccess_results ha hr
    simp [ho, hl, hf, hv]
  · rcases endOfCommand_next_cases hend with ⟨e, g, _, rfl⟩ | ⟨i, _, _, _, hd, hi, _, _, rfl⟩ | ⟨b, hd, _, rfl⟩
    · simp
    · exact ⟨fun _ => ⟨hm, complete_done _, i, hd, hi⟩, fun h => absurd rfl h⟩
    · exact ⟨by simp, fun _ => ⟨hm, complete_done _, b, hd⟩⟩

/-- Settles O50: neither a host access, reset included, nor the end of a command changes the parameters. -/
theorem parametersNeverChange : Obligations.ParametersNeverChange := by
  intro s t hs
  rcases step_next_cases hs with rfl | ⟨a, _, _, _, ha⟩ | ⟨_, hend⟩
  · rfl
  · exact (hostAccess_params ha).trans (afterHostTurn_params s)
  · exact (endOfCommand_ibuf_params hend).2

/-! ### What stays hidden -/

/-- The state with other values in `X`, `Y`, `C`, `LCMD`, `OFMT` and `RESULT`. -/
def State.withHidden (s : State) (k : ChecksumState) (l f v : Word) : State :=
  { s with cks := k, lcmd := l, ofmt := f, result := v }

/-- A state is related to `s` when it is `s` with other hidden values, under the three provisos. -/
theorem sameUpToHidden_iff {s u : State} :
    SameUpToHidden s u ↔ ∃ k l f v, u = s.withHidden k l f v ∧ (s.busy = true → l = s.lcmd) ∧
      (s.ofmtDefined = true → f = s.ofmt) ∧ (s.resultDefined = true → v = s.result) := by
  constructor
  · rintro ⟨hsame, hl, hf, hv⟩
    exact ⟨_, _, _, _, hsame, hl, hf, hv⟩
  · rintro ⟨k, l, f, v, rfl, hl, hf, hv⟩
    exact ⟨rfl, hl, hf, hv⟩

section WithHidden

variable (s : State) (k : ChecksumState) (l f v : Word)

@[simp] theorem withHidden_busy : (s.withHidden k l f v).busy = s.busy := rfl
@[simp] theorem withHidden_ibuf : (s.withHidden k l f v).ibuf = s.ibuf := rfl
@[simp] theorem withHidden_obuf : (s.withHidden k l f v).obuf = s.obuf := rfl
@[simp] theorem withHidden_cklen : (s.withHidden k l f v).cklen = s.cklen := rfl

@[simp] theorem withHidden_regReadable (r : Reg) : (s.withHidden k l f v).regReadable r = s.regReadable r := by
  cases r <;> rfl

/-- A register that answers the value it holds is not hidden. -/
theorem withHidden_reg {r : Reg} (hr : s.regReadable r = true) (hf : s.ofmtDefined = true → f = s.ofmt)
    (hv : s.resultDefined = true → v = s.result) : (s.withHidden k l f v).reg r = s.reg r := by
  cases r with
  | ofmt => exact hf (Bool.and_eq_true_iff.1 hr).2
  | result => exact hv (Bool.and_eq_true_iff.1 hr).2
  | _ => rfl

/-- No command reads a hidden element: neither a check nor the input of a T command or of `CHECKSUM`. -/
@[simp] theorem withHidden_geometryOk (op : TOp) (fmt : PixelFormatTag) :
    geometryOk op fmt (s.withHidden k l f v) = geometryOk op fmt s :=
  geometryOk_congr rfl rfl rfl rfl rfl

@[simp] theorem withHidden_checksumLengthOk (b : Buffer) :
    checksumLengthOk b (s.withHidden k l f v) = checksumLengthOk b s := by
  cases b <;> rfl

@[simp] theorem withHidden_bufByte (b : Buffer) (i : Nat) : (s.withHidden k l f v).bufByte b i = s.bufByte b i := by
  cases b <;> rfl

@[simp] theorem withHidden_inputBytes : (s.withHidden k l f v).inputBytes = s.inputBytes :=
  inputBytes_congr rfl fun _ _ => withHidden_bufByte ..

@[simp] theorem withHidden_checksumBytes (b : Buffer) :
    checksumBytes b (s.withHidden k l f v) = checksumBytes b s :=
  State.bytesAt_congr fun _ _ _ => withHidden_bufByte ..

theorem withHidden_afterHostTurn :
    (s.withHidden k l f v).afterHostTurn = s.afterHostTurn.withHidden k l f v := by
  unfold State.afterHostTurn
  rw [withHidden_busy]
  split <;> rfl

end WithHidden

/-- Two choices on one condition are related when they are in either case, however each decides the condition. -/
theorem rel_ite {α : Type} {R : α → α → Prop} {c : Prop} [Decidable c] {inst : Decidable c} {a b a' b' : α}
    (ht : c → R a a') (hf : ¬ c → R b b') : R (if c then a else b) (@ite α c inst a' b') := by
  by_cases hc : c
  · simpa only [hc, if_true] using ht hc
  · simpa only [hc, if_false] using hf hc

/-- Two outcomes of a step that a host cannot tell apart: related next states, or the same refusal. -/
inductive SameOutcome : Host.Outcome State Fault Refusal → Host.Outcome State Fault Refusal → Prop where
  | next {t w : State} (h : SameUpToHidden t w) : SameOutcome (.next t) (.next w)
  | refused (r : Refusal) : SameOutcome (.refused r) (.refused r)

theorem SameOutcome.exists_next {t : State} {o : Host.Outcome State Fault Refusal} :
    SameOutcome (.next t) o → ∃ w, o = .next w ∧ SameUpToHidden t w
  | .next h => ⟨_, rfl, h⟩

theorem SameOutcome.eq_refused {r : Refusal} {o : Host.Outcome State Fault Refusal} :
    SameOutcome (.refused r) o → o = .refused r
  | .refused _ => rfl

namespace SameUpToHidden

variable {s u : State} (h : SameUpToHidden s u)
include h

theorem afterHostTurn : SameUpToHidden s.afterHostTurn u.afterHostTurn := by
  obtain ⟨k, l, f, v, rfl, hl, hf, hv⟩ := sameUpToHidden_iff.1 h
  exact sameUpToHidden_iff.2 ⟨k, l, f, v, withHidden_afterHostTurn .., by simpa [afterHostTurn_busy] using hl,
    by simpa using hf, by simpa using hv⟩

/-- A register read shows nothing hidden: it answers what both states hold, or a free value. -/
theorem hostReadReg (off : Nat) : SameOutcome (hostReadReg off s) (hostReadReg off u) := by
  obtain ⟨k, l, f, v, rfl, hl, hf, hv⟩ := sameUpToHidden_iff.1 h
  unfold Machine.hostReadReg
  cases regAt off with
  | none => exact .refused _
  | some r =>
    simp only [withHidden_regReadable]
    refine .next (rel_ite (fun hr => ?_) fun _ => ⟨rfl, hl, hf, hv⟩)
    rw [withHidden_reg s k l f v hr hf hv]
    exact ⟨rfl, hl, hf, hv⟩

/-- A register write does not read the hidden elements, and a launch loads `LCMD` (R143). -/
theorem hostWriteReg (off : Nat) (w : Word) : SameOutcome (hostWriteReg off w s) (hostWriteReg off w u) := by
  obtain ⟨k, l, f, v, rfl, hl, hf, hv⟩ := sameUpToHidden_iff.1 h
  unfold Machine.hostWriteReg
  cases regAt off with
  | none => exact .refused _
  | some r =>
    refine rel_ite (R := SameOutcome) (fun _ => .refused _) fun _ => ?_
    cases r with
    | cmd => exact .next ⟨rfl, fun _ => rfl, hf, hv⟩
    | _ => exact .next ⟨rfl, hl, hf, hv⟩

/-! The buffer accesses and the polling loop look at no hidden element (R145, R146). -/

theorem hostReadIbuf (i : Nat) : SameOutcome (hostReadIbuf i s) (hostReadIbuf i u) := by
  obtain ⟨k, l, f, v, rfl, hl, hf, hv⟩ := sameUpToHidden_iff.1 h
  refine rel_ite (R := SameOutcome) (fun _ => ?_) fun _ => .refused _
  rw [withHidden_ibuf]
  cases s.ibuf.read i <;> exact .next ⟨rfl, hl, hf, hv⟩

theorem hostWriteIbuf (i : Nat) (b : Byte) : SameOutcome (hostWriteIbuf i b s) (hostWriteIbuf i b u) := by
  obtain ⟨k, l, f, v, rfl, hl, hf, hv⟩ := sameUpToHidden_iff.1 h
  refine rel_ite (R := SameOutcome) (fun _ => ?_) fun _ => .refused _
  exact rel_ite (R := SameOutcome) (fun _ => .refused _) fun _ => .next ⟨rfl, hl, hf, hv⟩

theorem hostReadObuf (i : Nat) : SameOutcome (hostReadObuf i s) (hostReadObuf i u) := by
  obtain ⟨k, l, f, v, rfl, hl, hf, hv⟩ := sameUpToHidden_iff.1 h
  refine rel_ite (R := SameOutcome) (fun _ => ?_) fun _ => .refused _
  rw [withHidden_obuf]
  cases s.obuf.read i with
  | some b => exact .next (rel_ite (fun _ => ⟨rfl, hl, hf, hv⟩) fun _ => ⟨rfl, hl, hf, hv⟩)
  | none => exact .next ⟨rfl, hl, hf, hv⟩

theorem hostPoll : SameOutcome (hostPoll s) (hostPoll u) := by
  obtain ⟨k, l, f, v, rfl, hl, hf, hv⟩ := sameUpToHidden_iff.1 h
  exact .next (rel_ite (fun _ => ⟨rfl, hl, hf, hv⟩) fun _ => ⟨rfl, hl, hf, hv⟩)

/-- A host access in two related states has the same outcome. -/
theorem hostAccess (a : HostAccess) : SameOutcome (hostAccess a s) (hostAccess a u) := by
  cases a with
  | rd off => exact h.hostReadReg off
  | wr off w => exact h.hostWriteReg off w
  | rdIbuf i => exact h.hostReadIbuf i
  | wrIbuf i b => exact h.hostWriteIbuf i b
  | rdObuf i => exact h.hostReadObuf i
  | wrObuf i b => exact .refused _
  | otherWidth => exact .refused _
  | poll => exact h.hostPoll
  | reset =>
    obtain ⟨k, l, f, v, rfl, -⟩ := sameUpToHidden_iff.1 h
    exact .next ⟨rfl, fun _ => rfl, fun _ => rfl, fun _ => rfl⟩

/-! The three ways a command ends. Afterwards BUSY = 0, so `LCMD` is hidden again. -/

theorem fail (e : ErrorKind) (g : BitVec 3) : SameUpToHidden (s.fail e g) (u.fail e g) := by
  obtain ⟨k, l, f, v, rfl, -, hf, hv⟩ := sameUpToHidden_iff.1 h
  exact ⟨rfl, by simp, hf, hv⟩

theorem complete_storeOutput (out : List Byte) (tag : PixelFormatTag) :
    SameUpToHidden (s.storeOutput out tag).complete (u.storeOutput out tag).complete := by
  obtain ⟨k, l, f, v, rfl, -, -, hv⟩ := sameUpToHidden_iff.1 h
  exact ⟨rfl, by simp, fun _ => rfl, hv⟩

theorem complete_storeResult (w : Word) (c : ChecksumState) :
    SameUpToHidden (s.storeResult w c).complete (u.storeResult w c).complete := by
  obtain ⟨k, l, f, v, rfl, -, hf, -⟩ := sameUpToHidden_iff.1 h
  exact ⟨rfl, by simp, hf, fun _ => rfl⟩

/-- A T command reads nothing hidden (R90). -/
theorem transcode (op : TOp) (fmt : PixelFormatTag) (body : List Byte → List Byte) :
    SameOutcome (transcode op fmt body s) (transcode op fmt body u) := by
  obtain ⟨k, l, f, v, rfl, -⟩ := sameUpToHidden_iff.1 h
  rcases transcode_cases op fmt body s with ⟨ht, hs⟩ | ⟨tag, ht, hg, hs⟩ | ⟨tag, ht, hg, hs⟩ <;> rw [hs]
  · rw [transcode_unsupported ht]
    exact .next (h.fail _ _)
  · rw [transcode_badGeometry ht body (by rwa [withHidden_geometryOk])]
    exact .next (h.fail _ _)
  · rw [transcode_success ht body (by rwa [withHidden_geometryOk]), withHidden_inputBytes]
    exact .next (h.complete_storeOutput _ _)

/-- `CHECKSUM` reloads `X`, `Y`, `C` and reads nothing hidden (R32, R123). -/
theorem execChecksum (b : Buffer) : SameOutcome (execChecksum b s) (execChecksum b u) := by
  obtain ⟨k, l, f, v, rfl, -⟩ := sameUpToHidden_iff.1 h
  rcases execChecksum_cases b s with ⟨hc, hs⟩ | ⟨hc, hs⟩ <;> rw [hs]
  · rw [execChecksum_badLength (by rwa [withHidden_checksumLengthOk])]
    exact .next (h.fail _ _)
  · rw [execChecksum_success (by rwa [withHidden_checksumLengthOk]), withHidden_checksumBytes, withHidden_cklen]
    exact .next (h.complete_storeResult _ _)

/-- The end of a command has the same outcome when both states have latched the same word. -/
theorem endOfCommand (hl : u.lcmd = s.lcmd) : SameOutcome (endOfCommand s) (endOfCommand u) := by
  unfold Machine.endOfCommand
  rw [hl]
  cases decode s.lcmd with
  | illegal why => exact .next (h.fail _ _)
  | command i =>
    rcases exec_transcode_or_checksum i with ⟨op, fmt, -, he⟩ | ⟨b, -, he⟩
    · simpa only [he] using h.transcode op fmt op.body
    · simpa only [he] using h.execChecksum b

end SameUpToHidden

theorem step_of_idle {s : State} (hb : s.busy = false) (hh : s.host = []) : step s = .next s := by
  simp [step, nextMove, hb, hh]

/-- The same agent moves in two related states, and its move has the same outcome. -/
theorem SameUpToHidden.step {s u : State} (h : SameUpToHidden s u) : SameOutcome (step s) (step u) := by
  obtain ⟨k, l, f, v, rfl, hl, hf, hv⟩ := sameUpToHidden_iff.1 h
  rcases step_cases s with ⟨hb, hh, hs⟩ | ⟨a, rest, hm, hh, hs⟩ | ⟨hm, hs⟩ <;> rw [hs]
  · rw [step_of_idle (s := s.withHidden k l f v) hb hh]
    exact .next h
  · rw [step_of_hostMovesNext (s := s.withHidden k l f v) hm hh]
    exact h.afterHostTurn.hostAccess a
  · rw [step_of_blockMovesNext (s := s.withHidden k l f v) hm]
    have hturn : SameUpToHidden s.afterBlockTurn (s.withHidden k l f v).afterBlockTurn := ⟨rfl, hl, hf, hv⟩
    exact hturn.endOfCommand (hl hm.1)

/-- Settles O43: a relational step lemma over the two agents' moves. -/
theorem hiddenStateIsNeverObserved : Obligations.HiddenStateIsNeverObserved := by
  intro s u h
  exact ⟨fun t ht => (ht ▸ h.step).exists_next, fun r hr => (hr ▸ h.step).eq_refused⟩

end Sys2Proof.Machine
end

section
/-! The family of 20_memory.md: host reads have no side effect on the block (R57, R190). -/

namespace Sys2Proof.Machine

/-- The two states hold the same block: they differ at most in the MODEL's own `host`, `turns`, `rdata`, `draws`. -/
def State.SameBlock (s t : State) : Prop :=
  t = { s with host := t.host, turns := t.turns, rdata := t.rdata, draws := t.draws }

theorem State.SameBlock.trans {s t u : State} (hst : s.SameBlock t) (htu : t.SameBlock u) : s.SameBlock u := by
  unfold State.SameBlock at hst htu ⊢
  rw [htu, hst]

theorem afterHostTurn_sameBlock (s : State) : s.SameBlock s.afterHostTurn := by
  unfold State.afterHostTurn
  split <;> rfl

/-- Only a register write, an IBUF write and a reset change the block at the host's hand (R142, R145, R180). -/
theorem hostAccess_sameBlock {a : HostAccess} {s t : State} (h : hostAccess a s = .next t)
    (hwr : ∀ off v, a ≠ .wr off v) (hwrIbuf : ∀ i b, a ≠ .wrIbuf i b) (hreset : a ≠ .reset) : s.SameBlock t := by
  rcases hostAccess_cases h with
    ⟨_, rfl⟩ | rfl | ⟨_, rfl⟩ | ⟨off, v, _, ha, _⟩ | ⟨i, b, ha, _⟩ | ⟨_, _, rfl⟩ | ⟨ha, _⟩
  case inr.inr.inr.inl => exact absurd ha (hwr off v)
  case inr.inr.inr.inr.inl => exact absurd ha (hwrIbuf i b)
  case inr.inr.inr.inr.inr.inr => exact absurd ha hreset
  all_goals rfl

/-- Settles O11: taking the host's turn out keeps the block, and so does every access that is no write and no reset. -/
theorem hostReadsChangeNothingInTheBlock : Obligations.HostReadsChangeNothingInTheBlock := by
  intro s t a rest hm hh hread hs
  rw [step_of_hostMovesNext hm hh] at hs
  have hblock : s.afterHostTurn.SameBlock t := by
    rcases hread with rfl | ⟨_, rfl⟩ | ⟨_, rfl⟩ | ⟨_, rfl⟩ <;> exact hostAccess_sameBlock hs nofun nofun nofun
  exact (afterHostTurn_sameBlock s).trans hblock

end Sys2Proof.Machine
end

section
/-! The family of 30_encoding.md: decoding and encoding are inverse (R71, R77, R78), the legal words (R76), the
assembler's formula (R79), and the polling loop (R80). -/

namespace Sys2Proof

/-! ### The fields of a command's word -/

/-- The `OPC` of a command (R72). -/
def Instr.opc : Instr → BitVec 3
  | .none _ => 0
  | .swapCh0Ch2 _ => 1
  | .rgb565ToRgb888 _ => 2
  | .rgb565ToBgr888 _ => 3
  | .checksum _ => 4

/-- What a command's word has in bits 6:4: the tag's code in format T, zero in format K (R71). -/
def Instr.fmtCode : Instr → BitVec 3
  | .none t => t.code
  | .swapCh0Ch2 t => t.code
  | .rgb565ToRgb888 t => t.code
  | .rgb565ToBgr888 t => t.code
  | .checksum _ => 0

/-- What a command's word has in bit 7: zero in format T, the buffer's code in format K (R71). -/
def Instr.bselCode : Instr → BitVec 1
  | .none _ => 0
  | .swapCh0Ch2 _ => 0
  | .rgb565ToRgb888 _ => 0
  | .rgb565ToBgr888 _ => 0
  | .checksum b => b.code

theorem encode_eq_fields (i : Instr) : encode i = 0#24 ++ i.bselCode ++ i.fmtCode ++ 0#1 ++ i.opc := by
  cases i <;> rfl

/-- The word of a command is the one word that has the command's fields and zeros elsewhere. -/
theorem eq_encode_iff (w : Word) (i : Instr) : w = encode i ↔
    (upperField w = 0 ∧ bit3Field w = 0) ∧ opcField w = i.opc ∧ fmtField w = i.fmtCode ∧ bselField w = i.bselCode := by
  constructor
  · rintro rfl
    cases i with
    | checksum b => cases b <;> decide
    | _ t => cases t <;> decide
  · rintro ⟨⟨hu, hz⟩, ho, hf, hb⟩
    rw [word_eq_fields w, hu, hz, ho, hf, hb, encode_eq_fields]
    rfl

/-! ### What the decoder answers a command for -/

theorem tagOfCode_eq_some_iff {c : BitVec 3} {t : PixelFormatTag} : tagOfCode c = some t ↔ c = t.code :=
  ⟨code_of_tagOfCode, fun h => h ▸ tagOfCode_code t⟩

theorem bufferOfCode_eq_iff {c : BitVec 1} {b : Buffer} : bufferOfCode c = b ↔ c = b.code :=
  ⟨fun h => h ▸ (code_bufferOfCode c).symm, fun h => h ▸ bufferOfCode_code b⟩

theorem decodeFormatT_eq_command_iff (w : Word) (mk : PixelFormatTag → Instr) (i : Instr) :
    decodeFormatT w mk = .command i ↔ ∃ t, mk t = i ∧ fmtField w = t.code ∧ bselField w = 0 := by
  unfold decodeFormatT
  simp only [← tagOfCode_eq_some_iff]
  by_cases hb : bselField w = 0#1
  · cases tagOfCode (fmtField w) <;> simp [hb]
  · simp [hb]

theorem decodeFormatK_eq_command_iff (w : Word) (i : Instr) :
    decodeFormatK w = .command i ↔ ∃ b, .checksum b = i ∧ fmtField w = 0 ∧ bselField w = b.code := by
  unfold decodeFormatK
  simp only [← bufferOfCode_eq_iff]
  by_cases hf : fmtField w = 0#3 <;> simp [hf]

/-- The decoder answers a command exactly for the words with that command's fields and zeros elsewhere. -/
theorem decode_eq_command_iff (w : Word) (i : Instr) : decode w = .command i ↔
    (upperField w = 0 ∧ bit3Field w = 0) ∧ opcField w = i.opc ∧ fmtField w = i.fmtCode ∧ bselField w = i.bselCode := by
  constructor
  · intro h
    unfold decode at h
    split at h
    · cases h
    next hz =>
      refine ⟨not_or.1 hz |>.imp not_not.1 not_not.1, ?_⟩
      split at h
      case h_5 ho =>
        obtain ⟨b, rfl, hf, hb⟩ := (decodeFormatK_eq_command_iff w i).1 h
        exact ⟨BitVec.eq_of_toNat_eq ho, hf, hb⟩
      case h_6 => cases h
      all_goals
        obtain ⟨t, rfl, hf, hb⟩ := (decodeFormatT_eq_command_iff w _ i).1 h
        exact ⟨BitVec.eq_of_toNat_eq ‹_›, hf, hb⟩
  · rintro ⟨⟨hu, hz⟩, ho, hf, hb⟩
    rw [decode, if_neg (by simp [hu, hz]), ho]
    cases i with
    | checksum b => exact (decodeFormatK_eq_command_iff w _).2 ⟨b, rfl, hf, hb⟩
    | _ t => exact (decodeFormatT_eq_command_iff w _ _).2 ⟨t, rfl, hf, hb⟩

/-- Settles O3: both sides say that the word has the command's fields and zeros elsewhere. -/
theorem decodeAndEncodeAgree : Obligations.DecodeAndEncodeAgree := fun w i =>
  (decode_eq_command_iff w i).trans (eq_encode_iff w i).symm

/-! ### The legal words -/

theorem legalWord_encode (i : Instr) : legalWord (encode i) = true := by
  cases i with
  | none t => exact Laws.EncodedWordIsLegal.none t
  | swapCh0Ch2 t => exact Laws.EncodedWordIsLegal.swapCh0Ch2 t
  | rgb565ToRgb888 t => exact Laws.EncodedWordIsLegal.rgb565ToRgb888 t
  | rgb565ToBgr888 t => exact Laws.EncodedWordIsLegal.rgb565ToBgr888 t
  | checksum b => exact Laws.EncodedWordIsLegal.checksum b

/-- The four conditions of R76, on the fields the decoder reads. -/
def LegalFields (w : Word) : Prop :=
  (upperField w = 0 ∧ bit3Field w = 0) ∧
  (opcField w).toNat ≤ 4 ∧
  ((opcField w).toNat ≤ 3 → bselField w = 0 ∧ (fmtField w).toNat ≤ 6) ∧
  ((opcField w).toNat = 4 → fmtField w = 0)

theorem legalWord_iff_legalFields (w : Word) : legalWord w = true ↔ LegalFields w := by
  simp only [LegalFields, field_eq_zero_iff, opcField_toNat, bit3Field_toNat, fmtField_toNat, bselField_toNat,
    upperField_toNat]
  simp [legalWord, reservedBitsZero, opcDefined, formatTFieldsOk, formatKFieldsOk, imp_iff_not_or, and_assoc]

/-- Every word with legal fields is some command's: the table of R72 by `OPC`. -/
theorem LegalFields.exists_decode {w : Word} (h : LegalFields w) : ∃ i, decode w = .command i := by
  obtain ⟨hz, ho, hT, hK⟩ := h
  simp only [decode_eq_command_iff]
  rcases Nat.lt_or_eq_of_le ho with ho | ho
  · obtain ⟨hb, hf⟩ := hT (by omega)
    obtain ⟨t, ht⟩ := (tagOfCode_isSome_iff _).2 hf
    have hf := code_of_tagOfCode ht
    interval_cases hk : (opcField w).toNat
    · exact ⟨.none t, hz, BitVec.eq_of_toNat_eq hk, hf, hb⟩
    · exact ⟨.swapCh0Ch2 t, hz, BitVec.eq_of_toNat_eq hk, hf, hb⟩
    · exact ⟨.rgb565ToRgb888 t, hz, BitVec.eq_of_toNat_eq hk, hf, hb⟩
    · exact ⟨.rgb565ToBgr888 t, hz, BitVec.eq_of_toNat_eq hk, hf, hb⟩
  · exact ⟨.checksum (bufferOfCode (bselField w)), hz, BitVec.eq_of_toNat_eq ho, hK ho, (code_bufferOfCode _).symm⟩

/-- The numeric check of R76 and the decoder agree. -/
theorem legalWord_iff_exists_decode (w : Word) : legalWord w = true ↔ ∃ i, decode w = .command i := by
  constructor
  · exact fun h => ((legalWord_iff_legalFields w).1 h).exists_decode
  · rintro ⟨i, hd⟩
    rw [(decodeAndEncodeAgree w i).1 hd]
    exact legalWord_encode i

theorem bit3Field_eq_zero_iff (w : Word) : bit3Field w = 0 ↔ w.getLsbD 3 = false := by
  rw [field_eq_zero_iff, bit3Field_toNat, getLsbD_eq_false_iff]
  rfl

theorem bselField_eq_zero_iff (w : Word) : bselField w = 0 ↔ w.getLsbD 7 = false := by
  rw [field_eq_zero_iff, bselField_toNat, getLsbD_eq_false_iff]
  rfl

theorem toNat_lt_of_legalWord {w : Word} (h : legalWord w = true) : w.toNat < 256 := by
  obtain ⟨⟨hu, _⟩, _⟩ := (legalWord_iff_legalFields w).1 h
  have := upperField_toNat w
  rw [(field_eq_zero_iff _).1 hu] at this
  omega

/-- R76: `4 * 7 + 2` legal words, all of them below 256. -/
theorem count_legalWords : ((List.range 256).filter fun n => legalWord (BitVec.ofNat 32 n)).length = 30 := by decide

/-! ### Listed words and the assembler's formula -/

/-- Settles O1: fourteen closed decodings. -/
theorem listedWordsDecodeAsListed : Obligations.ListedWordsDecodeAsListed := by
  unfold Obligations.ListedWordsDecodeAsListed
  decide

/-- The concatenation of R71 is the shift of R79, whatever code stands in `FMT`. -/
theorem formatTWord_eq (opc : BitVec 3) (t : PixelFormatTag) :
    formatTWord opc t = (t.code.setWidth 32 <<< 4) ||| opc.setWidth 32 := by
  unfold formatTWord
  generalize t.code = c
  revert opc c
  decide

/-- Settles O2: the codes are the definition's, and a T word is the formula for every `OPC` and tag. -/
theorem commandWordsFollowTheAssemblerFormula : Obligations.CommandWordsFollowTheAssemblerFormula :=
  ⟨⟨rfl, rfl, rfl, rfl, rfl, rfl, rfl⟩,
   fun t => ⟨formatTWord_eq 0 t, formatTWord_eq 1 t, formatTWord_eq 2 t, formatTWord_eq 3 t⟩, rfl, rfl⟩

end Sys2Proof

namespace Sys2Proof.Machine

/-! ### How the end of a command answers a word -/

/-- An illegal word in flight fails with `IllegalCommand` (R76, R163). -/
theorem endOfCommand_of_illegalWord {s : State} (h : legalWord s.lcmd = false) :
    endOfCommand s = .next (s.fail .illegalCommand 0) := by
  cases hd : decode s.lcmd with
  | command i => exact absurd ((legalWord_iff_exists_decode _).2 ⟨i, hd⟩) (by simp [h])
  | illegal why => simp [endOfCommand, hd]

/-- The word `0x61` asks the swap for RGB565, which R91 does not define. -/
theorem endOfCommand_of_swapRgb565 {s : State} (h : s.lcmd = 0x61) :
    endOfCommand s = .next (s.fail .unsupportedFormat PixelFormatTag.rgb565.code) := by
  have hd : decode s.lcmd = .command (.swapCh0Ch2 .rgb565) := (decodeAndEncodeAgree _ _).2 h
  rw [endOfCommand, hd]
  exact transcode_unsupported (op := .swapCh0Ch2) (fmt := .rgb565) rfl swapGroups s

/-- Settles O4: the conditions are those on the decoder's fields, the thirty words are counted, and the two failures are
the ends of their commands. -/
theorem legalWordsAreTheThirtyOfTheRule : Obligations.LegalWordsAreTheThirtyOfTheRule := by
  refine ⟨fun w => ?_, legalWord_iff_exists_decode, fun w => toNat_lt_of_legalWord, count_legalWords,
    fun s hm hl => ?_, by decide, fun s hm hl => ?_⟩
  · rw [← bit3Field_eq_zero_iff, ← bselField_eq_zero_iff, ← legalWord_iff_exists_decode]
    exact legalWord_iff_legalFields w
  · have hend := endOfCommand_of_illegalWord (s := s.afterBlockTurn) hl
    rw [step_of_blockMovesNext hm, hend, State.fail, statusError_illegal]
  · have hend := endOfCommand_of_swapRgb565 (s := s.afterBlockTurn) hl
    rw [step_of_blockMovesNext hm, hend, State.fail, statusError_format]
    rfl

/-! ### The polling loop -/

/-- Settles O12: the poll is performed in the state with the host's turn taken out, which has the same `STATUS`. -/
theorem pollRepeatsWhileBusy : Obligations.PollRepeatsWhileBusy := by
  intro s rest hm hh
  obtain rfl : s.afterHostTurn.host = rest := by simp [hh]
  rw [step_of_hostMovesNext hm hh]
  show hostPoll s.afterHostTurn = _
  rw [hostPoll, afterHostTurn_busy]
  split <;> simp [State.returnValue]

end Sys2Proof.Machine
end

section
/-! The family of 40_transcode.md: what the four transcoder commands store, how they fail and what they leave unchanged
(R92 to R102), and the checksum of a copied input (R95, R126). -/

namespace Sys2Proof.Machine

/-! ### Running a T command -/

/-- The command of an operation on a declared tag (R72). -/
def TOp.instr : TOp → PixelFormatTag → Instr
  | .none => .none
  | .swapCh0Ch2 => .swapCh0Ch2
  | .rgb565ToRgb888 => .rgb565ToRgb888
  | .rgb565ToBgr888 => .rgb565ToBgr888

theorem exec_instr (op : TOp) (fmt : PixelFormatTag) (s : State) :
    exec (op.instr fmt) s = transcode op fmt op.body s := by
  cases op <;> rfl

theorem exec_of_accepted {op : TOp} {fmt tag : PixelFormatTag} {s : State} (ht : outTag op fmt = some tag)
    (hg : geometryOk op fmt s = true) :
    exec (op.instr fmt) s = .next (s.storeOutput (op.body s.inputBytes) tag).complete :=
  (exec_instr op fmt s).trans (transcode_success ht op.body hg)

/-- A failed check writes `STATUS` with the code of `InvalidGeometry` (R93, R165). -/
theorem exec_of_badGeometry {op : TOp} {fmt tag : PixelFormatTag} {s : State} (ht : outTag op fmt = some tag)
    (hg : ¬ geometryOk op fmt s = true) : exec (op.instr fmt) s = .next { s with status := 0x14 } := by
  rw [exec_instr, transcode_badGeometry ht op.body (Bool.not_eq_true _ ▸ hg), State.fail, statusError_geometry]

/-- A refused tag writes `STATUS` with the code of `UnsupportedFormat` and the tag in `ETAG` (R91, R165). -/
theorem exec_of_refusedTag {op : TOp} {fmt : PixelFormatTag} (ht : outTag op fmt = none) (s : State) :
    exec (op.instr fmt) s = .next { s with status := 0x24 ||| (fmt.code.setWidth 32 <<< 8) } := by
  rw [exec_instr, transcode_unsupported ht, State.fail, statusError_format]

/-- A T command that ends with `DONE` passed both checks and stored its output. -/
theorem exec_done {op : TOp} {fmt : PixelFormatTag} {s t : State} (h : exec (op.instr fmt) s = .next t)
    (hd : t.done = true) :
    ∃ tag, outTag op fmt = some tag ∧ geometryOk op fmt s = true ∧
      t = (s.storeOutput (op.body s.inputBytes) tag).complete :=
  transcode_done ((exec_instr op fmt s).symm.trans h) hd

/-! ### What a successful command has stored -/

@[simp] theorem complete_storeOutput_read (out : List Byte) (tag : PixelFormatTag) (s : State) (a : Nat) :
    (s.storeOutput out tag).complete.obuf.read a = out[a]? :=
  Memory.read_ofBytes out a

/-- An output as long as the input leaves `OBUF_LEN = IBUF_LEN`. -/
theorem storeOutput_obufLen_of_length_eq {out : List Byte} {s : State} (h : out.length = s.inputBytes.length)
    (tag : PixelFormatTag) : (s.storeOutput out tag).complete.obufLen = s.ibufLen := by
  simp [h]

theorem inputBytes_getElem?_of_lt {s : State} {a : Nat} (ha : a < s.ibufLen.toNat) :
    s.inputBytes[a]? = some (s.bufByte .ibuf a) := by
  rw [State.inputBytes_getElem?, if_pos ha]

/-- A byte that a buffer holds is the byte a command reads there. -/
theorem bufByte_of_read {s : State} {b : Buffer} {a : Nat} {v : Byte} (h : (s.bufMem b).read a = some v) :
    s.bufByte b a = v := by
  simp [State.bufByte, h]

/-! ### The checks -/

theorem geometryOk_swap_iff (fmt : PixelFormatTag) (s : State) :
    geometryOk .swapCh0Ch2 fmt s = true ↔ s.ChecksOneToFour fmt ∧ s.CheckFive := by
  simp [geometryOk_iff, State.ChecksOneToFour, State.CheckFive, and_assoc]

/-- Check 5 is the swap's alone (R93). -/
theorem geometryOk_iff_of_ne_swap {op : TOp} (hop : op ≠ .swapCh0Ch2) (fmt : PixelFormatTag) (s : State) :
    geometryOk op fmt s = true ↔ s.ChecksOneToFour fmt := by
  simp [geometryOk_iff, State.ChecksOneToFour, hop]

/-- `HEIGHT * WIDTH * CHANNELS` is a multiple of `WIDTH * CHANNELS` (R96). -/
theorem ibufLen_mod_four {s : State} {fmt : PixelFormatTag} (hc : s.ChecksOneToFour fmt) (h5 : s.CheckFive) :
    s.ibufLen.toNat % 4 = 0 := by
  obtain ⟨_, _, _, hlen⟩ := hc
  rw [hlen, Nat.mul_assoc]
  exact Nat.mod_eq_zero_of_dvd (Dvd.dvd.mul_left (Nat.dvd_of_mod_eq_zero h5) _)

theorem ibufLen_of_rgb565 {op : TOp} {s : State} (hg : geometryOk op .rgb565 s = true) :
    s.ibufLen.toNat = 2 * s.width.toNat * s.height.toNat := by
  obtain ⟨_, hstride, _, hlen, _⟩ := (geometryOk_iff op .rgb565 s).1 hg
  rw [hlen, hstride, stride]
  ring

/-! ### The table of R91 -/

theorem outTag_swap_eq_some_iff {fmt tag : PixelFormatTag} : outTag .swapCh0Ch2 fmt = some tag ↔
    fmt = .yuvx ∧ tag = .vuyx ∨ fmt = .uyvy422 ∧ tag = .vyuy422 := by
  cases fmt <;> simp [outTag, eq_comm]

theorem exists_outTag_swap {fmt : PixelFormatTag} (h : fmt = .yuvx ∨ fmt = .uyvy422) :
    ∃ tag, outTag .swapCh0Ch2 fmt = some tag := by
  rcases h with rfl | rfl <;> exact ⟨_, rfl⟩

theorem outTag_swap_eq_none {fmt : PixelFormatTag} (h0 : fmt ≠ .yuvx) (h2 : fmt ≠ .uyvy422) :
    outTag .swapCh0Ch2 fmt = none :=
  Option.eq_none_iff_forall_ne_some.2 fun _ ht => (outTag_swap_eq_some_iff.1 ht).elim (h0 ·.1) (h2 ·.1)

theorem outTag_rgb888_eq_none {fmt : PixelFormatTag} (h : fmt ≠ .rgb565) : outTag .rgb565ToRgb888 fmt = none := by
  cases fmt with
  | rgb565 => exact absurd rfl h
  | _ => rfl

theorem outTag_bgr888_eq_none {fmt : PixelFormatTag} (h : fmt ≠ .rgb565) : outTag .rgb565ToBgr888 fmt = none := by
  cases fmt with
  | rgb565 => exact absurd rfl h
  | _ => rfl

/-- Settles O13: the table of `stride`, and the parameter of `State.reset`. -/
theorem stridesOfTheTags : Obligations.StridesOfTheTags :=
  ⟨rfl, fun _ => ⟨rfl, rfl, rfl, rfl, rfl, rfl, rfl⟩⟩

/-! ### The expansion of a sample -/

/-- Shifting at 16 bits and then narrowing is narrowing and then shifting (R97). -/
theorem setWidth_shiftLeft_byte (x : Half) (n : Nat) : ((x <<< n).setWidth 8 : Byte) = x.setWidth 8 <<< n := by
  ext i hi
  simp

theorem red8_eq_shifted (v : Half) : red8 v = (((v >>> 11) &&& 0x1F) <<< 3).setWidth 8 :=
  (setWidth_shiftLeft_byte _ 3).symm

theorem green8_eq_shifted (v : Half) : green8 v = (((v >>> 5) &&& 0x3F) <<< 2).setWidth 8 :=
  (setWidth_shiftLeft_byte _ 2).symm

theorem blue8_eq_shifted (v : Half) : blue8 v = ((v &&& 0x1F) <<< 3).setWidth 8 :=
  (setWidth_shiftLeft_byte _ 3).symm

theorem red8_eq_masked (v : Half) : red8 v = ((v >>> 8) &&& 0xF8).setWidth 8 := by
  ext i hi
  interval_cases i <;> simp [red8]

theorem green8_eq_masked (v : Half) : green8 v = ((v >>> 3) &&& 0xFC).setWidth 8 := by
  ext i hi
  interval_cases i <;> simp [green8]

theorem blue8_eq_masked (v : Half) : blue8 v = ((v <<< 3) &&& 0xF8).setWidth 8 := by
  ext i hi
  interval_cases i <;> simp [blue8]

/-- A byte shifted left has zeros in its low bits, which also bounds it. -/
theorem toNat_shiftLeft_mod (x : Byte) {n : Nat} (hn : n ≤ 8) : (x <<< n).toNat % 2 ^ n = 0 := by
  rw [BitVec.toNat_shiftLeft, Nat.shiftLeft_eq, Nat.mod_mod_of_dvd _ (pow_dvd_pow 2 hn), Nat.mul_mod_left]

/-- Settles O18: the shifts commute with the narrowing, the masked forms agree bit by bit, and the zeros in the low bits
bound the results. -/
theorem expansionShiftsAndZeroFills : Obligations.ExpansionShiftsAndZeroFills := by
  refine ⟨fun v => ?_, by decide, by decide⟩
  have hr : (red8 v).toNat % 2 ^ 3 = 0 := toNat_shiftLeft_mod _ (by decide)
  have hg : (green8 v).toNat % 2 ^ 2 = 0 := toNat_shiftLeft_mod _ (by decide)
  have hb : (blue8 v).toNat % 2 ^ 3 = 0 := toNat_shiftLeft_mod _ (by decide)
  have hr' := (red8 v).isLt
  have hg' := (green8 v).isLt
  have hb' := (blue8 v).isLt
  exact ⟨red8_eq_shifted v, green8_eq_shifted v, blue8_eq_shifted v, red8_eq_masked v, green8_eq_masked v,
    blue8_eq_masked v, by omega, by omega, by omega, hr, hg, hb⟩

/-! ### `NONE` and `SWAP_CH0_CH2` -/

/-- Settles O14: checks 1 to 4 are the geometry check of `NONE`, and its body is the input. -/
theorem noneCopiesTheInput : Obligations.NoneCopiesTheInput := by
  intro s fmt
  have hg : geometryOk .none fmt s = true ↔ s.ChecksOneToFour fmt := geometryOk_iff_of_ne_swap (by decide) fmt s
  refine ⟨(formatTWord_eq 0 fmt).trans BitVec.or_zero, fun hc => ?_, fun hc => ?_⟩
  · refine ⟨_, exec_of_accepted (op := .none) rfl (hg.2 hc), statusDone_eq, storeOutput_obufLen_of_length_eq rfl fmt,
      rfl, rfl, rfl, (ibufLen_pos_and_stride_le (hg.2 hc)).1, fun a ha => ?_⟩
    exact (complete_storeOutput_read ..).trans (inputBytes_getElem?_of_lt ha)
  · exact exec_of_badGeometry (op := .none) rfl (mt hg.1 hc)

/-- Settles O15: the accepted tags are those of the table of R91, checks 1 to 5 are the geometry check of the swap, and
group `k` of its body's output is group `k` of the input exchanged. -/
theorem swapExchangesBytesZeroAndTwo : Obligations.SwapExchangesBytesZeroAndTwo := by
  intro s fmt
  refine ⟨formatTWord_eq 1 fmt, fun tag ht hc h5 => ?_, fun hf hc => ?_, fun h0 h2 => ?_⟩
  · refine ⟨_, exec_of_accepted (op := .swapCh0Ch2) (outTag_swap_eq_some_iff.2 ht)
      ((geometryOk_swap_iff fmt s).2 ⟨hc, h5⟩), statusDone_eq,
      storeOutput_obufLen_of_length_eq (swapGroups_length _) tag, rfl, rfl, ibufLen_mod_four hc h5, fun k hk => ?_⟩
    obtain ⟨e0, e1, e2, e3⟩ := swapGroups_group s.inputBytes k (by rw [State.inputBytes_length]; omega)
    simp only [complete_storeOutput_read, TOp.body, e0, e1, e2, e3]
    refine ⟨?_, ?_, ?_, ?_⟩ <;> exact inputBytes_getElem?_of_lt (by omega)
  · obtain ⟨tag, ht⟩ := exists_outTag_swap hf
    exact exec_of_badGeometry (op := .swapCh0Ch2) ht (mt (geometryOk_swap_iff fmt s).1 hc)
  · exact exec_of_refusedTag (op := .swapCh0Ch2) (outTag_swap_eq_none h0 h2) s

/-- An IBUF that holds `out` below its full length gives a command `out` as its input. -/
theorem inputBytes_eq_of_ibuf_read {u : State} {out : List Byte} (hlen : out.length = u.ibufLen.toNat)
    (hb : ∀ a, a < u.ibufLen.toNat → u.ibuf.read a = out[a]?) : u.inputBytes = out := by
  refine List.ext_getElem? fun a => ?_
  by_cases ha : a < u.ibufLen.toNat
  · have hout := List.getElem?_eq_getElem (l := out) (i := a) (by omega)
    rw [inputBytes_getElem?_of_lt ha, hout, bufByte_of_read (b := .ibuf) ((hb a ha).trans hout)]
  · rw [State.inputBytes_getElem?, if_neg ha, List.getElem?_eq_none (by omega)]

/-- Settles O21: the body is an involution; the output tag `VUYX` is not accepted; the second swap passes the same
checks and its input is the output of the first. -/
theorem swapIsAnInvolution : Obligations.SwapIsAnInvolution := by
  refine ⟨fun bs _ => swapGroups_swapGroups bs, fun s t h hd => ?_, fun s t u fmt h hd hw hh hc hl hp hb => ?_⟩
  · obtain ⟨tag, ht, _, rfl⟩ := exec_done (op := .swapCh0Ch2) h hd
    cases ht
    exact ⟨rfl, exec_of_refusedTag (op := .swapCh0Ch2) rfl _⟩
  · obtain ⟨tag, ht, hg, rfl⟩ := exec_done (op := .swapCh0Ch2) h hd
    have hin : u.inputBytes = swapGroups s.inputBytes :=
      inputBytes_eq_of_ibuf_read (by rw [swapGroups_length, State.inputBytes_length, hl]) fun a ha =>
        (hb a (hl ▸ ha)).trans (complete_storeOutput_read ..)
    refine ⟨_, exec_of_accepted (op := .swapCh0Ch2) ht ((geometryOk_congr hw hh hc hl hp).trans hg), complete_done _,
      (storeOutput_obufLen_of_length_eq (swapGroups_length _) tag).trans hl, fun a ha => ?_⟩
    rw [complete_storeOutput_read, TOp.body, hin, swapGroups_swapGroups, inputBytes_getElem?_of_lt ha]

/-- Settles O22: both runs apply one body to the same bytes. -/
theorem swapIgnoresTheLeadingDimensions : Obligations.SwapIgnoresTheLeadingDimensions := by
  intro s t u v fmt fmt' hl hb hs hsd hu hud
  obtain ⟨_, _, _, rfl⟩ := exec_done (op := .swapCh0Ch2) hs hsd
  obtain ⟨_, _, _, rfl⟩ := exec_done (op := .swapCh0Ch2) hu hud
  simp [inputBytes_congr hl hb]

/-! ### The two RGB565 commands -/

/-- The lengths of an expansion: three bytes for each sample of two, within OBUF (R98, R99). -/
theorem expansion_lengths {op : TOp} {s : State} (hop : ∀ n, op.outLen n = 3 * (n / 2)) (hp : s.params.ok = true)
    (hg : geometryOk op .rgb565 s = true) (tag : PixelFormatTag) :
    (s.storeOutput (op.body s.inputBytes) tag).complete.obufLen.toNat = 3 * s.width.toNat * s.height.toNat ∧
      (s.storeOutput (op.body s.inputBytes) tag).complete.obufLen.toNat ≤ s.params.obufCap := by
  obtain ⟨hlen, hcap⟩ := storeOutput_length_fits hp hg tag
  have hin : s.ibufLen.toNat = 2 * s.width.toNat * s.height.toNat := ibufLen_of_rgb565 hg
  rw [complete_obufLen, hlen]
  refine ⟨?_, hcap⟩
  rw [TOp.body_length, hop, State.inputBytes_length, hin, Nat.mul_assoc 2, Nat.mul_assoc 3,
    Nat.mul_div_cancel_left _ (by decide)]

/-- Pixel `k` of the RGB output of a command, from sample `k` of its input (R53, R98). -/
theorem expandToRgb_inputBytes {s : State} {k : Nat} {v : Half} (hk : k < s.ibufLen.toNat / 2)
    (hv : v = halfOfBytes (s.bufByte .ibuf (2 * k)) (s.bufByte .ibuf (2 * k + 1))) :
    (expandToRgb s.inputBytes)[3 * k]? = some (red8 v) ∧ (expandToRgb s.inputBytes)[3 * k + 1]? = some (green8 v) ∧
      (expandToRgb s.inputBytes)[3 * k + 2]? = some (blue8 v) :=
  hv ▸ expandToRgb_pixel _ k (inputBytes_getElem?_of_lt (by omega)) (inputBytes_getElem?_of_lt (by omega))

/-- Pixel `k` of the BGR output of a command, from sample `k` of its input (R53, R99). -/
theorem expandToBgr_inputBytes {s : State} {k : Nat} {v : Half} (hk : k < s.ibufLen.toNat / 2)
    (hv : v = halfOfBytes (s.bufByte .ibuf (2 * k)) (s.bufByte .ibuf (2 * k + 1))) :
    (expandToBgr s.inputBytes)[3 * k]? = some (blue8 v) ∧ (expandToBgr s.inputBytes)[3 * k + 1]? = some (green8 v) ∧
      (expandToBgr s.inputBytes)[3 * k + 2]? = some (red8 v) := by
  obtain ⟨hr, hg, hb⟩ := expandToRgb_inputBytes hk hv
  obtain ⟨e0, e1, e2⟩ := expandToBgr_pixel s.inputBytes k
  exact ⟨e0.trans hb, e1.trans hg, e2.trans hr⟩

/-- Settles O16: checks 1 to 4 are the geometry check, and each pixel is the expansion of its sample. -/
theorem rgbOutputIsRedGreenBlue : Obligations.RgbOutputIsRedGreenBlue := by
  intro s fmt hp
  have hg : geometryOk .rgb565ToRgb888 .rgb565 s = true ↔ s.ChecksOneToFour .rgb565 :=
    geometryOk_iff_of_ne_swap (by decide) _ s
  refine ⟨formatTWord_eq 2 fmt, ?_, ?_, fun hf => ?_⟩
  · rintro rfl hc
    obtain ⟨hlen, hcap⟩ := expansion_lengths (op := .rgb565ToRgb888) (fun _ => rfl) hp (hg.2 hc) .rgb888
    refine ⟨_, exec_of_accepted (op := .rgb565ToRgb888) rfl (hg.2 hc), statusDone_eq, hlen,
      ibufLen_of_rgb565 (hg.2 hc), hcap, rfl, rfl, rfl, rfl, rfl, fun k v hk hv => ?_⟩
    simpa only [complete_storeOutput_read, TOp.body, red8_eq_shifted, green8_eq_shifted, blue8_eq_shifted] using
      expandToRgb_inputBytes hk hv
  · rintro rfl hc
    exact exec_of_badGeometry (op := .rgb565ToRgb888) rfl (mt hg.1 hc)
  · exact exec_of_refusedTag (op := .rgb565ToRgb888) (outTag_rgb888_eq_none hf) s

/-- Settles O17: as for RGB, with bytes `3k` and `3k+2` of every pixel exchanged; the two commands accept the same tag
and make the same checks. -/
theorem bgrOutputIsBlueGreenRed : Obligations.BgrOutputIsBlueGreenRed := by
  intro s fmt hp
  have hg : geometryOk .rgb565ToBgr888 .rgb565 s = true ↔ s.ChecksOneToFour .rgb565 :=
    geometryOk_iff_of_ne_swap (by decide) _ s
  refine ⟨formatTWord_eq 3 fmt, ?_, ?_, fun hf => ?_, fun t u ht hu hd k _ => ?_⟩
  · rintro rfl hc
    obtain ⟨hlen, hcap⟩ := expansion_lengths (op := .rgb565ToBgr888) (fun _ => rfl) hp (hg.2 hc) .bgr888
    refine ⟨_, exec_of_accepted (op := .rgb565ToBgr888) rfl (hg.2 hc), statusDone_eq, hlen,
      ibufLen_of_rgb565 (hg.2 hc), hcap, rfl, rfl, rfl, rfl, rfl, fun k v hk hv => ?_⟩
    simpa only [complete_storeOutput_read, TOp.body, red8_eq_shifted, green8_eq_shifted, blue8_eq_shifted] using
      expandToBgr_inputBytes hk hv
  · rintro rfl hc
    exact exec_of_badGeometry (op := .rgb565ToBgr888) rfl (mt hg.1 hc)
  · exact exec_of_refusedTag (op := .rgb565ToBgr888) (outTag_bgr888_eq_none hf) s
  · obtain ⟨tag, htag, hgt, rfl⟩ := exec_done (op := .rgb565ToRgb888) ht hd
    obtain rfl : fmt = .rgb565 := by
      by_contra hf
      simp [outTag_rgb888_eq_none hf] at htag
    have hc : s.ChecksOneToFour .rgb565 := (geometryOk_iff_of_ne_swap (by decide) _ s).1 hgt
    cases hu.symm.trans (exec_of_accepted (op := .rgb565ToBgr888) rfl (hg.2 hc))
    simpa only [complete_storeOutput_read, TOp.body] using expandToBgr_pixel s.inputBytes k

/-! ### The frame and the exact products -/

/-- Settles O19: a failure writes `STATUS` alone, and a success the output, whose memory lists `OBUF_LEN` bytes. -/
theorem transcoderFrame : Obligations.TranscoderFrame := by
  intro i s t fmt hi h
  obtain ⟨op, hexec⟩ := exec_formatT hi
  rw [hexec] at h
  rcases transcode_cases op fmt op.body s with ⟨_, h'⟩ | ⟨_, _, _, h'⟩ | ⟨tag, _, hg, h'⟩ <;>
    cases h.symm.trans h'
  · exact ⟨rfl, fun _ => rfl, fun _ => ⟨rfl, rfl, fun _ => rfl⟩, by simp⟩
  · exact ⟨rfl, fun _ => rfl, fun _ => ⟨rfl, rfl, fun _ => rfl⟩, by simp⟩
  · refine ⟨rfl, fun _ => rfl, by simp, fun _ hp a ha => ?_⟩
    rw [complete_obufLen, (storeOutput_length_fits hp hg tag).1] at ha
    rw [complete_storeOutput_read, List.getElem?_eq_none ha]

/-- A product that no 32-bit `IBUF_LEN` can equal fails check 4 of every accepted format (R94). -/
theorem exec_of_product_too_large {op : TOp} {fmt tag : PixelFormatTag} {s : State} (ht : outTag op fmt = some tag)
    (h : 2 ^ 32 ≤ s.height.toNat * s.width.toNat * s.channels.toNat) :
    exec (op.instr fmt) s = .next { s with status := 0x14 } := by
  refine exec_of_badGeometry ht fun hg => ?_
  obtain ⟨_, _, _, hlen, _⟩ := (geometryOk_iff op fmt s).1 hg
  exact absurd s.ibufLen.isLt (hlen ▸ h.not_gt)

/-- Settles O20: products of 32-bit factors, and check 4. -/
theorem geometryProductsDoNotWrap : Obligations.GeometryProductsDoNotWrap := by
  intro s
  have hw := s.width.isLt
  have hh := s.height.isLt
  have hc := s.channels.isLt
  have hwc : s.width.toNat * s.channels.toNat < 2 ^ 32 * 2 ^ 32 := Nat.mul_lt_mul'' hw hc
  have hhwc : s.height.toNat * s.width.toNat * s.channels.toNat < 2 ^ 32 * 2 ^ 32 * 2 ^ 32 :=
    Nat.mul_lt_mul'' (Nat.mul_lt_mul'' hh hw) hc
  refine ⟨hwc, hhwc, fun h => ⟨fun fmt => ?_, fun fmt hf => ?_, ?_, ?_⟩⟩
  · exact exec_of_product_too_large (op := .none) rfl h
  · obtain ⟨tag, ht⟩ := exists_outTag_swap hf
    exact exec_of_product_too_large (op := .swapCh0Ch2) ht h
  · exact exec_of_product_too_large (op := .rgb565ToRgb888) rfl h
  · exact exec_of_product_too_large (op := .rgb565ToBgr888) rfl h

/-! ### The machine's fold is the fold of the specification -/

/-- The accumulators as the natural numbers of the specification. -/
def ChecksumState.toSpec (a : ChecksumState) : Spec.Peac := ⟨a.x.toNat, a.y.toNat, a.c.toNat⟩

theorem toSpec_peacStep (a : ChecksumState) (w : Half) : (peacStep a w).toSpec = Spec.peacStep a.toSpec w.toNat := by
  obtain ⟨hx, hy, hc⟩ := peacStep_toNat a w
  have hxlt := a.x.isLt
  have hwlt := w.isLt
  simp only [ChecksumState.toSpec, Spec.peacStep, hx, hy, hc, Spec.Peac.mk.injEq, true_and, and_true]
  omega

theorem peacResult_toSpec (a : ChecksumState) : (peacResult a).toNat = Spec.peacResult a.toSpec := by
  have hx := a.x.isLt
  simp only [peacResult_toNat, Spec.peacResult, ChecksumState.toSpec]
  omega

/-- The fold over the first `n` words of the bytes, each byte as `byte` gives it (R124, R125). -/
theorem toSpec_foldl_take {bs : List Byte} {byte : Nat → Byte} (len : Word) :
    ∀ n, (∀ k, k < 2 * n → bs[k]? = some (byte k)) →
      (((wordsOf bs).take n).foldl peacStep (peacInit len)).toSpec =
        Spec.peac len.toNat (fun k => (byte k).toNat) n
  | 0, _ => rfl
  | n + 1, hb => by
    have hword : (wordsOf bs)[n]? = some (halfOfBytes (byte (2 * n)) (byte (2 * n + 1))) :=
      wordsOf_getElem? bs n (hb _ (by omega)) (hb _ (by omega))
    have ih := toSpec_foldl_take len n fun k hk => hb k (by omega)
    simp only [List.take_add_one, hword, Option.toList_some, List.foldl_append, List.foldl_cons, List.foldl_nil]
    rw [toSpec_peacStep, ih, halfOfBytes_toNat, Spec.peac]

/-- The accumulators `CHECKSUM` ends with are those of the specification. -/
theorem toSpec_peacRun_checksumBytes {b : Buffer} {s : State} {byte : Nat → Byte}
    (hb : ∀ k, k < 2 * (s.cklen.toNat / 2) → s.bufByte b k = byte k) :
    (peacRun s.cklen (checksumBytes b s)).toSpec =
      Spec.peac s.cklen.toNat (fun k => (byte k).toNat) (s.cklen.toNat / 2) := by
  have hbytes : ∀ k, k < 2 * (s.cklen.toNat / 2) → (checksumBytes b s)[k]? = some (byte k) := fun k hk => by
    rw [checksumBytes, State.bytesAt_getElem?, if_pos hk, Nat.zero_add, hb k hk]
  have hlen : (wordsOf (checksumBytes b s)).length ≤ s.cklen.toNat / 2 := by
    simp [checksumBytes, State.bytesAt_length]
  rw [← toSpec_foldl_take s.cklen _ hbytes, List.take_of_length_le hlen, peacRun]

/-- An accepted `CHECKSUM` gives the specification's checksum of the bytes it reads (R126). -/
theorem exec_checksum_eq_spec {b : Buffer} {s : State} {byte : Nat → Byte} (hl : s.ChecksumLengths b)
    (hb : ∀ k, k < s.cklen.toNat → s.bufByte b k = byte k) :
    ∃ u, exec (.checksum b) s = .next u ∧ u.done = true ∧
      u.result.toNat = Spec.checksum s.cklen.toNat fun k => (byte k).toNat := by
  refine ⟨_, execChecksum_success ((checksumLengthOk_iff b s).2 hl), complete_done _, ?_⟩
  rw [complete_result, storeResult_result, peacResult_toSpec,
    toSpec_peacRun_checksumBytes fun k hk => hb k (by omega), Spec.checksum]

/-- Settles O32: OBUF holds the copy at its full length, so `CHECKSUM OBUF` is accepted and reads the input bytes. -/
theorem checksumOfACopyIsTheChecksumOfTheInput : Obligations.ChecksumOfACopyIsTheChecksumOfTheInput := by
  intro s t fmt len hp h hd hlen
  obtain ⟨tag, _, hg, rfl⟩ := exec_done (op := .none) h hd
  obtain ⟨hout, hcap⟩ := storeOutput_length_fits hp hg tag
  have hcopy : (TOp.none.body s.inputBytes).length = s.ibufLen.toNat := s.inputBytes_length
  refine exec_checksum_eq_spec ⟨hout.trans_le hcap, hlen.trans_eq (hout.trans hcopy).symm⟩ fun k hk => ?_
  have hread : (s.storeOutput (TOp.none.body s.inputBytes) tag).complete.obuf.read k = some (s.bufByte .ibuf k) :=
    (complete_storeOutput_read ..).trans (inputBytes_getElem?_of_lt (Nat.lt_of_lt_of_le hk hlen))
  exact bufByte_of_read (b := .obuf) hread

end Sys2Proof.Machine
end

section
/-! The family of 41_checksum.md: the fold of `CHECKSUM` is the spec's (R120 to R126), what it reads and writes (R130,
R133), and the bounds and the seed of its accumulators (R123, R127 to R131). -/

namespace Sys2Proof.Machine

/-! ### What a `CHECKSUM` that ended did -/

/-- `execChecksum_cases` read from the outcome. -/
theorem exec_checksum_next_cases {b : Buffer} {s t : State} (h : exec (.checksum b) s = .next t) :
    t = s.fail .invalidGeometry 0 ∨
    s.ChecksumLengths b ∧ t = (s.storeResult (peacResult (peacRun s.cklen (checksumBytes b s)))
      (peacRun s.cklen (checksumBytes b s))).complete := by
  rcases execChecksum_cases b s with ⟨_, h'⟩ | ⟨hl, h'⟩ <;> cases h.symm.trans h'
  · exact .inl rfl
  · exact .inr ⟨(checksumLengthOk_iff b s).1 hl, rfl⟩

theorem exec_checksum_done {b : Buffer} {s t : State} (h : exec (.checksum b) s = .next t) (hd : t.done = true) :
    s.ChecksumLengths b ∧ t = (s.storeResult (peacResult (peacRun s.cklen (checksumBytes b s)))
      (peacRun s.cklen (checksumBytes b s))).complete := by
  rcases exec_checksum_next_cases h with rfl | hsuccess
  · simp at hd
  · exact hsuccess

/-- The result of a successful `CHECKSUM` of `n` bytes is the specification's, over the bytes it read. -/
theorem exec_checksum_done_result {b : Buffer} {s t : State} {n : Word} {byte : Nat → Byte}
    (h : exec (.checksum b) { s with cklen := n } = .next t) (hd : t.done = true)
    (hb : ∀ k, k < 2 * (n.toNat / 2) → s.bufByte b k = byte k) :
    t.result.toNat = Spec.checksum n.toNat fun k => (byte k).toNat := by
  obtain ⟨_, rfl⟩ := exec_checksum_done h hd
  rw [complete_result, storeResult_result, peacResult_toSpec, toSpec_peacRun_checksumBytes hb, Spec.checksum]

/-- Submitting fewer bytes of the same buffer succeeds too (R121). -/
theorem exec_checksum_done_of_cklen_le {b : Buffer} {s t u : State} {m n : Word} (hmn : m.toNat ≤ n.toNat)
    (h : exec (.checksum b) { s with cklen := n } = .next t) (hd : t.done = true)
    (hu : exec (.checksum b) { s with cklen := m } = .next u) : u.done = true := by
  obtain ⟨⟨hheld, hn⟩, _⟩ := exec_checksum_done h hd
  have hl : State.ChecksumLengths { s with cklen := m } b := ⟨hheld, hmn.trans hn⟩
  cases hu.symm.trans (execChecksum_success ((checksumLengthOk_iff _ _).2 hl))
  exact complete_done _

/-- `CHECKSUM` reads the bytes of whole words alone (R122). -/
theorem checksumBytes_congr {b : Buffer} {s u : State} (hl : u.cklen = s.cklen)
    (hb : ∀ a, a < 2 * (s.cklen.toNat / 2) → u.bufByte b a = s.bufByte b a) :
    checksumBytes b u = checksumBytes b s := by
  rw [checksumBytes, hl]
  exact State.bytesAt_congr fun k _ hk => hb k (by omega)

/-- Settles O25: the machine's accumulators are the specification's fold, field by field, and the failure branch is the
negation of the length check. -/
theorem checksumIsTheSpecFold : Obligations.ChecksumIsTheSpecFold := by
  refine ⟨rfl, rfl, fun b s => ⟨fun hheld hle => ?_, fun hbad => ?_⟩⟩
  · have hfold := toSpec_peacRun_checksumBytes (b := b) (s := s) fun _ _ => rfl
    refine ⟨_, execChecksum_success ((checksumLengthOk_iff b s).2 ⟨hheld, hle⟩), statusDone_eq, rfl, rfl, ?_,
      congrArg Spec.Peac.x hfold, congrArg Spec.Peac.y hfold, congrArg Spec.Peac.c hfold⟩
    rw [complete_result, storeResult_result, peacResult_toSpec, hfold, Spec.checksum]
  · have hl : checksumLengthOk b s = false := by
      rw [Bool.eq_false_iff, ne_eq, checksumLengthOk_iff]
      omega
    exact execChecksum_badLength hl

/-- Settles O31: a failure writes `STATUS`, a success `STATUS`, `RESULT` and the accumulators, and neither a buffer. -/
theorem checksumFrame : Obligations.ChecksumFrame := by
  intro b s t h
  rcases exec_checksum_next_cases h with rfl | ⟨_, rfl⟩
  · exact ⟨rfl, fun _ => rfl, fun _ => rfl, fun _ => rfl⟩
  · exact ⟨rfl, fun _ => rfl, fun _ => rfl, by simp⟩

/-- Settles O27: both commands run the same fold, from the same seed over the same bytes. -/
theorem checksumDependsOnSubmittedWordsOnly : Obligations.ChecksumDependsOnSubmittedWordsOnly := by
  intro b s u t v hl hb ht hv htd hvd
  obtain ⟨_, rfl⟩ := exec_checksum_done ht htd
  obtain ⟨_, rfl⟩ := exec_checksum_done hv hvd
  have hbytes : checksumBytes b u = checksumBytes b s := checksumBytes_congr hl hb
  simp [hl, hbytes]

/-! ### The first words -/

/-- The first sum of step 1, before it wraps (R128). -/
theorem peacInit_sum (len : Word) :
    (peacInit len).c.toNat + (peacInit len).x.toNat + (peacInit len).y.toNat = len.toNat + 0xBE01 := by
  simp [Nat.add_assoc]

/-- No word, no step (R129). -/
theorem spec_checksum_of_le_one {len : Nat} (h : len ≤ 1) (byte : Nat → Nat) : Spec.checksum len byte = 0xABCD1234 := by
  have hn : len / 2 = 0 := by omega
  simp [Spec.checksum, hn, Spec.peac, Spec.peacResult]

/-- After one word the low half of the result is the seed's, whatever the word is (R131). -/
theorem spec_checksum_mod_of_one_word {len : Nat} (h : len / 2 = 1) (byte : Nat → Nat) :
    Spec.checksum len byte % 2 ^ 16 = (len + 0xBE01) % 2 ^ 16 := by
  simp only [Spec.checksum, h, Spec.peac, Spec.peacStep, Spec.peacResult]
  omega

/-- Settles O26: the specification's fold over no words. -/
theorem checksumOfZeroWords : Obligations.ChecksumOfZeroWords := by
  intro b s hone hle hheld
  obtain ⟨_, _, hfold⟩ := checksumIsTheSpecFold
  obtain ⟨t, ht, hstatus, _, _, hresult, _⟩ := (hfold b s).1 hheld hle
  exact ⟨t, ht, hstatus, BitVec.eq_of_toNat_eq (hresult.trans (spec_checksum_of_le_one hone _))⟩

/-- Settles O29: the step in numbers at the seed; `X` and `C` after it do not depend on the word. -/
theorem seedWrapsInTheFirstWord : Obligations.SeedWrapsInTheFirstWord := by
  refine ⟨fun len w => ?_, fun _ => ⟨rfl, rfl⟩, fun _ => ⟨rfl, rfl⟩, fun _ => ⟨rfl, rfl⟩⟩
  obtain ⟨hx, hy, hc⟩ := peacStep_toNat (peacInit len) w
  rw [peacInit_sum] at hx hc
  exact ⟨hx, hc, hy⟩

/-- A successful `CHECKSUM` of 0 or 1 bytes gives the value of no words (R129). -/
theorem exec_checksum_result_of_le_one {b : Buffer} {s t : State} {n : Word} (hn : n.toNat ≤ 1)
    (h : exec (.checksum b) { s with cklen := n } = .next t) (hd : t.done = true) : t.result = 0xABCD1234 :=
  BitVec.eq_of_toNat_eq ((exec_checksum_done_result h hd fun _ _ => rfl).trans (spec_checksum_of_le_one hn _))

/-- A successful `CHECKSUM` of one word shows its own seed in the low half of `RESULT` (R131). -/
theorem exec_checksum_result_mod_of_one_word {b : Buffer} {s t : State} {n : Word} (hn : n.toNat / 2 = 1)
    (h : exec (.checksum b) { s with cklen := n } = .next t) (hd : t.done = true) :
    t.result.toNat % 2 ^ 16 = (n.toNat + 0xBE01) % 2 ^ 16 := by
  rw [exec_checksum_done_result h hd fun _ _ => rfl, spec_checksum_mod_of_one_word hn]

/-- Settles O30: for odd lengths the whole words end before the last byte; the rest evaluates the specification's fold at
the two lengths. -/
theorem oddLengthsKeepTheirOwnSeed : Obligations.OddLengthsKeepTheirOwnSeed := by
  refine ⟨fun b s u t v hodd hl hb ht hv htd hvd => ?_, fun b s t u ht htd hu => ?_, fun b s t u ht htd hu => ?_,
    fun b s t u hb ht htd hu => ?_⟩
  · exact (checksumDependsOnSubmittedWordsOnly b s u t v hl (fun a ha => hb a (by omega)) ht hv htd hvd).1
  · have hud : u.done = true := exec_checksum_done_of_cklen_le (by decide) ht htd hu
    have htr : t.result = 0xABCD1234 := exec_checksum_result_of_le_one (by decide) ht htd
    have hur : u.result = 0xABCD1234 := exec_checksum_result_of_le_one (by decide) hu hud
    exact ⟨hur.trans htr.symm, htr⟩
  · have hud : u.done = true := exec_checksum_done_of_cklen_le (by decide) ht htd hu
    have htr : t.result.toNat % 2 ^ 16 = 0xBE04 :=
      (exec_checksum_result_mod_of_one_word (by decide) ht htd).trans (by decide)
    have hur : u.result.toNat % 2 ^ 16 = 0xBE03 :=
      (exec_checksum_result_mod_of_one_word (by decide) hu hud).trans (by decide)
    exact ⟨hud, htr, hur, fun he => by rw [he] at htr; omega⟩
  · have hud : u.done = true := exec_checksum_done_of_cklen_le (by decide) ht htd hu
    have htr := exec_checksum_done_result (byte := fun _ => 0) ht htd fun k hk => hb k (by simpa using hk)
    have hur := exec_checksum_done_result (byte := fun _ => 0) hu hud fun k hk => hb k (by simpa using hk)
    exact ⟨BitVec.eq_of_toNat_eq (htr.trans (by decide)), BitVec.eq_of_toNat_eq (hur.trans (by decide))⟩

/-! ### The bounds of the accumulators (R127) -/

/-- A fold over words ends with the step of the last one. -/
theorem foldl_peacStep_eq_last {ws : List Half} (h : ws ≠ []) (a : ChecksumState) :
    ws.foldl peacStep a = peacStep (ws.dropLast.foldl peacStep a) (ws.getLast h) := by
  conv_lhs => rw [← List.dropLast_append_getLast h]
  rw [List.foldl_append, List.foldl_cons, List.foldl_nil]

/-- After a word `C` is the high half of a 32-bit sum. -/
theorem foldl_peacStep_c_le {ws : List Half} (h : ws ≠ []) (a : ChecksumState) :
    (ws.foldl peacStep a).c.toNat ≤ 0xFFFF := by
  rw [foldl_peacStep_eq_last h]
  obtain ⟨_, _, hc⟩ := peacStep_toNat (ws.dropLast.foldl peacStep a) (ws.getLast h)
  omega

/-- From the first word on the sum of the next step 1 stays far below `2^32`. -/
theorem foldl_peacStep_sum_le {ws : List Half} (h : ws ≠ []) {a : ChecksumState} (ha : a.y.toNat ≤ 0x1FFFE) :
    (ws.foldl peacStep a).c.toNat + (ws.foldl peacStep a).x.toNat + (ws.foldl peacStep a).y.toNat ≤ 0x3FFFC := by
  have hc := foldl_peacStep_c_le h a
  have hx := (ws.foldl peacStep a).x.isLt
  have hy := foldl_peacStep_y_le ws ha
  omega

/-- From the second word on `C` is the carry of such a sum. -/
theorem foldl_peacStep_c_le_three {ws : List Half} (h : 2 ≤ ws.length) {a : ChecksumState}
    (ha : a.y.toNat ≤ 0x1FFFE) : (ws.foldl peacStep a).c.toNat ≤ 3 := by
  have hne : ws ≠ [] := List.ne_nil_of_length_pos (by omega)
  have hprev : ws.dropLast ≠ [] := List.ne_nil_of_length_pos (by rw [List.length_dropLast]; omega)
  have hsum := foldl_peacStep_sum_le hprev ha
  rw [foldl_peacStep_eq_last hne]
  obtain ⟨_, _, hc⟩ := peacStep_toNat (ws.dropLast.foldl peacStep a) (ws.getLast hne)
  omega

/-- Settles O28: the bounds hold of the fold over any words, and a buffer has one word for every two bytes. -/
theorem accumulatorBounds : Obligations.AccumulatorBounds := by
  refine ⟨fun len bs => ⟨peacRun_y_le len bs, fun hbs => ?_, fun hbs => ?_⟩, fun len => ?_⟩
  · have hne : wordsOf bs ≠ [] := List.ne_nil_of_length_pos (by rw [wordsOf_length]; omega)
    exact ⟨foldl_peacStep_c_le hne (peacInit len),
      foldl_peacStep_sum_le (a := peacInit len) hne (peacRun_y_le len [])⟩
  · exact foldl_peacStep_c_le_three (a := peacInit len) (by rw [wordsOf_length]; omega) (peacRun_y_le len [])
  · rw [peacInit_sum]
    omega

end Sys2Proof.Machine
end

section
/-! The family of 42_host_interface.md: the launch and the end of a command (R143, R144), the host's register and buffer
accesses (R141, R142, R145), and the accesses the interface does not define (R148). -/

namespace Sys2Proof.Machine

/-! ### The end of the command in flight -/

/-- A command ends with BUSY = 0 and exactly one of DONE and ERR (R144). -/
theorem endOfCommand_next_flags (s : State) :
    ∃ t, endOfCommand s = .next t ∧ t.busy = false ∧ (t.done = true ↔ t.err = false) := by
  rcases endOfCommand_cases s with ⟨e, g, _, h⟩ | ⟨_, _, _, _, _, _, _, _, h⟩ | ⟨_, _, _, h⟩ <;>
    exact ⟨_, h, by simp⟩

/-- Settles O33: the step is the end of the command, with each of its outcomes. -/
theorem everyCommandEndsWithDoneOrErr : Obligations.EveryCommandEndsWithDoneOrErr := by
  intro s hm
  rw [step_of_blockMovesNext hm]
  exact endOfCommand_next_flags s.afterBlockTurn

/-- Settles O5: a word that decodes to a command is ended by that command's `exec`. -/
theorem stepRunsTheDecodedCommand : Obligations.StepRunsTheDecodedCommand := by
  intro s i hm hd
  rw [step_of_blockMovesNext hm, endOfCommand, afterBlockTurn_lcmd, hd]

/-! ### Register accesses -/

section RegisterAccesses

variable {s : State} {off : Nat} {r : Reg} (hr : regAt off = some r)
include hr

theorem hostReadReg_of_regAt :
    hostReadReg off s = .next (if s.regReadable r then s.returnValue (s.reg r) else s.returnFreeWord) := by
  simp [hostReadReg, hr]

theorem hostWriteReg_of_idle (hb : s.busy = false) (v : Word) : hostWriteReg off v s = .next (s.writeReg v r) := by
  simp [hostWriteReg, hr, hb]

theorem hostWriteReg_of_busy (hb : s.busy = true) (v : Word) :
    hostWriteReg off v s = .refused .hostWriteWhileBusy := by
  simp [hostWriteReg, hr, hb]

end RegisterAccesses

theorem hostReadReg_of_none {off : Nat} (h : regAt off = none) (s : State) :
    hostReadReg off s = .refused .undefinedRegisterOffset := by
  simp [hostReadReg, h]

theorem hostWriteReg_of_none {off : Nat} (h : regAt off = none) (v : Word) (s : State) :
    hostWriteReg off v s = .refused .undefinedRegisterOffset := by
  simp [hostWriteReg, h]

/-- The ten offsets of the register map (R21). -/
theorem isSome_regAt_iff (off : Nat) : (regAt off).isSome = true ↔
    off ∈ [0x00, 0x04, 0x08, 0x0C, 0x10, 0x14, 0x18, 0x1C, 0x20, 0x24] := by
  constructor
  · intro h
    obtain ⟨r, hr⟩ := Option.isSome_iff_exists.1 h
    rw [← offset_of_regAt hr]
    cases r <;> decide
  · revert off
    decide

/-! ### A host that waits -/

/-- A waiting access is answered, keeps `STATUS` and the schedule, and adds no other access: a poll at most stays. -/
theorem hostAccess_of_waits {a : HostAccess} (ha : a.waits = true) (s : State) :
    ∃ t, hostAccess a s = .next t ∧ t.status = s.status ∧ t.turns = s.turns ∧ t.host ⊆ a :: s.host := by
  cases a with
  | poll =>
    refine ⟨_, rfl, ?_⟩
    split <;> simp
  | rd off =>
    obtain ⟨r, hr⟩ := Option.isSome_iff_exists.1 ha
    refine ⟨_, hostReadReg_of_regAt hr, ?_⟩
    split <;> simp
  | _ => exact nomatch ha

/-- While a command is in flight the host's move uses up a turn of the schedule. -/
theorem afterHostTurn_turns_of_busy {s : State} (hb : s.busy = true) : s.afterHostTurn.turns = s.turns.tail := by
  simp [State.afterHostTurn, hb]

/-- With a command in flight and a host that only waits, a step either ends the command or uses up one of the host's
turns and leaves the same situation. -/
theorem step_of_waiting_host {s : State} (hb : s.busy = true) (hw : ∀ a ∈ s.host, a.waits = true) :
    ∃ t, step s = .next t ∧
      (t.busy = false ∨
        t.busy = true ∧ t.turns.length + 1 = s.turns.length ∧ ∀ a ∈ t.host, a.waits = true) := by
  rcases step_cases s with ⟨hb', _⟩ | ⟨a, rest, ⟨_, hturn⟩, hh, hs⟩ | ⟨_, hs⟩
  · simp [hb] at hb'
  · obtain ⟨t, ht, hstatus, hturns, hsub⟩ := hostAccess_of_waits (hw a (by simp [hh])) s.afterHostTurn
    have hhead : s.turns.head? = some .host := by simpa [hb] using hturn
    have hne : s.turns ≠ [] := fun h => by simp [h] at hhead
    rw [afterHostTurn_status] at hstatus
    rw [afterHostTurn_turns_of_busy hb] at hturns
    rw [afterHostTurn_host, hh, List.tail_cons, ← hh] at hsub
    refine ⟨t, hs.trans ht, .inr ⟨(flags_of_status_eq hstatus).1.trans hb, ?_, fun x hx => hw x (hsub hx)⟩⟩
    rw [hturns, List.length_tail, Nat.sub_add_cancel (List.length_pos_iff.2 hne)]
  · obtain ⟨t, ht, hidle, _⟩ := endOfCommand_next_flags s.afterBlockTurn
    exact ⟨t, hs.trans ht, .inl hidle⟩

/-- Settles O49, by induction on the turns left in the MODEL's schedule (log 9): every step that does not end the
command uses up one of them. -/
theorem everyLaunchedCommandEnds : Obligations.EveryLaunchedCommandEnds := by
  intro s hb hw
  induction hn : s.turns.length generalizing s with
  | zero =>
    obtain ⟨t, hs, hidle | ⟨_, hlen, _⟩⟩ := step_of_waiting_host hb hw
    · exact ⟨1, t, le_rfl, coreRun_succ core 0 hs, hidle⟩
    · omega
  | succ n ih =>
    obtain ⟨t, hs, hidle | ⟨htb, hlen, htw⟩⟩ := step_of_waiting_host hb hw
    · exact ⟨1, t, by omega, coreRun_succ core 0 hs, hidle⟩
    · obtain ⟨k, u, hk, hrun, hidle⟩ := ih t htb htw (by omega)
      exact ⟨k + 1, u, by omega, (coreRun_succ core k hs).trans hrun, hidle⟩

/-! ### The state in which the host's access is performed -/

theorem hostMovesNext_of_idle {s : State} {a : HostAccess} {rest : List HostAccess} (hb : s.busy = false)
    (hh : s.host = a :: rest) : s.hostMovesNext :=
  ⟨by simp [hh], .inl hb⟩

theorem hostMovesNext_of_turn {s : State} {a : HostAccess} {rest : List HostAccess} (ht : s.turns.head? = some .host)
    (hh : s.host = a :: rest) : s.hostMovesNext :=
  ⟨by simp [hh], .inr ht⟩

theorem afterHostTurn_of_idle {s : State} {a : HostAccess} {rest : List HostAccess} (hb : s.busy = false)
    (hh : s.host = a :: rest) : s.afterHostTurn = { s with host := rest } := by
  simp [State.afterHostTurn, hb, hh]

@[simp] theorem afterHostTurn_reg (s : State) (r : Reg) : s.afterHostTurn.reg r = s.reg r := by
  cases r <;> simp [State.reg]

@[simp] theorem afterHostTurn_regReadable (s : State) (r : Reg) :
    s.afterHostTurn.regReadable r = s.regReadable r := by
  cases r <;> simp [State.regReadable, afterHostTurn_busy]

/-! ### The host reads or writes a register -/

/-- A register write while BUSY = 0 (R142, R143). -/
theorem step_wr_idle {s : State} {off : Nat} {v : Word} {rest : List HostAccess} {r : Reg} (hb : s.busy = false)
    (hh : s.host = .wr off v :: rest) (hr : regAt off = some r) :
    step s = .next (State.writeReg v { s with host := rest } r) := by
  rw [step_of_hostMovesNext (hostMovesNext_of_idle hb hh) hh, afterHostTurn_of_idle hb hh]
  exact hostWriteReg_of_idle (s := { s with host := rest }) hr hb v

/-- A register read that answers the value held (R141). -/
theorem step_rd_readable {s : State} {off : Nat} {rest : List HostAccess} {r : Reg} (hm : s.hostMovesNext)
    (hh : s.host = .rd off :: rest) (hr : regAt off = some r) (hread : s.regReadable r = true) :
    step s = .next { s.afterHostTurn with rdata := s.reg r } := by
  rw [step_of_hostMovesNext hm hh, hostAccess, hostReadReg_of_regAt hr]
  simp [hread, State.returnValue]

/-- A register read that answers an unspecified value (R184, U3, U7). -/
theorem step_rd_unreadable {s : State} {off : Nat} {rest : List HostAccess} {r : Reg} (hm : s.hostMovesNext)
    (hh : s.host = .rd off :: rest) (hr : regAt off = some r) (hread : s.regReadable r = false) :
    ∃ v, step s = .next { s.afterHostTurn with rdata := v, draws := s.draws + 1 } := by
  rw [step_of_hostMovesNext hm hh, hostAccess, hostReadReg_of_regAt hr]
  exact ⟨Config.freeWord s.draws, by simp [hread, State.returnFreeWord]⟩

/-- Settles O7: the nine writes are `State.writeReg` of their registers, and BUSY = 1 refuses every register. -/
theorem registerWritesStoreOrAreIgnored : Obligations.RegisterWritesStoreOrAreIgnored := by
  refine ⟨fun s v rest hb => ?_, fun s off v rest hb ht hh hoff => ?_⟩
  · exact ⟨(step_wr_idle hb · rfl), (step_wr_idle hb · rfl), (step_wr_idle hb · rfl), (step_wr_idle hb · rfl),
      (step_wr_idle hb · rfl), (step_wr_idle hb · rfl), (step_wr_idle hb · rfl), (step_wr_idle hb · rfl),
      (step_wr_idle hb · rfl)⟩
  · obtain ⟨r, hr⟩ := Option.isSome_iff_exists.1 ((isSome_regAt_iff off).2 hoff)
    rw [step_of_hostMovesNext (hostMovesNext_of_turn ht hh) hh]
    exact hostWriteReg_of_busy hr ((afterHostTurn_busy s).trans hb) v

/-- Settles O8: each offset is its register's, and the last clause lists when `State.regReadable` is false. -/
theorem registerReadsReturnTheValueHeld : Obligations.RegisterReadsReturnTheValueHeld := by
  intro s rest hm
  refine ⟨(step_rd_readable hm · rfl rfl), (step_rd_readable hm · rfl rfl), (step_rd_readable hm · rfl rfl),
    (step_rd_readable hm · rfl rfl), (step_rd_readable hm · rfl rfl), (step_rd_readable hm · rfl rfl),
    (step_rd_readable hm · rfl rfl), fun hh hb => step_rd_readable hm hh rfl ?_,
    fun hh hb hd => step_rd_readable hm hh rfl ?_, fun hh hb hd => step_rd_readable hm hh rfl ?_, ?_⟩
  · simp [State.regReadable, hb]
  · simp [State.regReadable, hb, hd]
  · simp [State.regReadable, hb, hd]
  · rintro (⟨hh, hb⟩ | ⟨hh, hb | hd⟩ | ⟨hh, hb | hd⟩) <;> refine step_rd_unreadable hm hh rfl ?_
    all_goals simp [State.regReadable, *]

/-! ### The launch -/

/-- A host access that leaves the command in flight is a read or a poll: writes are refused and a reset abandons the
command (R181, R183). -/
theorem hostAccess_sameBlock_of_inFlight {a : HostAccess} {s t : State} (h : hostAccess a s = .next t)
    (hb : s.busy = true) (htb : t.busy = true) : s.SameBlock t := by
  rcases hostAccess_cases h with
    ⟨_, rfl⟩ | rfl | ⟨_, rfl⟩ | ⟨_, _, _, _, _, hidle, _⟩ | ⟨_, _, _, _, hidle, _⟩ | ⟨_, _, rfl⟩ | ⟨_, rfl⟩
  case inr.inr.inr.inl => simp [hb] at hidle
  case inr.inr.inr.inr.inl => simp [hb] at hidle
  case inr.inr.inr.inr.inr.inr => simp [State.busy] at htb
  all_goals rfl

/-- A step after which the command is still in flight was the host's and kept the block. -/
theorem step_sameBlock_of_inFlight {s t : State} (h : step s = .next t) (hb : s.busy = true) (htb : t.busy = true) :
    s.SameBlock t := by
  rcases step_next_cases h with rfl | ⟨a, _, _, _, ha⟩ | ⟨_, hend⟩
  · rfl
  · exact (afterHostTurn_sameBlock s).trans
      (hostAccess_sameBlock_of_inFlight ha ((afterHostTurn_busy s).trans hb) htb)
  · obtain ⟨u, hu, hidle, _⟩ := endOfCommand_next_flags s.afterBlockTurn
    rw [hend] at hu
    cases hu
    simp [htb] at hidle

/-- Settles O6: the launch is the write of `CMD`, and while the command is in flight the block keeps all its state. -/
theorem launchLatchesTheCommand : Obligations.LaunchLatchesTheCommand := by
  refine ⟨fun s v rest hb hh => ?_, fun s t hb hs htb => ?_⟩
  · rw [step_wr_idle hb hh rfl, State.writeReg, State.launch, statusBusy_eq]
  · have e : s.SameBlock t := step_sameBlock_of_inFlight hs hb htb
    rw [e]
    exact ⟨rfl, rfl, rfl, rfl, rfl, rfl, rfl, rfl, rfl, rfl, rfl, rfl⟩

/-! ### Buffer accesses -/

@[simp] theorem afterHostTurn_obufReadable (s : State) (i : Nat) :
    s.afterHostTurn.obufReadable i = s.obufReadable i := by
  simp [State.obufReadable, afterHostTurn_busy]

theorem hostWriteIbuf_of_idle {s : State} {i : Nat} (hi : i < s.params.ibufCap) (hb : s.busy = false) (b : Byte) :
    hostWriteIbuf i b s = .next { s with ibuf := s.ibuf.write i b } := by
  simp [hostWriteIbuf, hi, hb]

section BufferAccesses

variable {s : State} {i : Nat} {b : Byte} {rest : List HostAccess} (hm : s.hostMovesNext)
include hm

theorem step_wrIbuf_idle (hh : s.host = .wrIbuf i b :: rest) (hb : s.busy = false) (hi : i < s.params.ibufCap) :
    step s = .next { s with host := rest, ibuf := s.ibuf.write i b } := by
  rw [step_of_hostMovesNext hm hh, afterHostTurn_of_idle hb hh]
  exact hostWriteIbuf_of_idle (s := { s with host := rest }) hi hb b

theorem step_wrIbuf_busy (hh : s.host = .wrIbuf i b :: rest) (hb : s.busy = true) (hi : i < s.params.ibufCap) :
    step s = .refused .hostWriteWhileBusy := by
  rw [step_of_hostMovesNext hm hh]
  simp [hostAccess, hostWriteIbuf, hi, afterHostTurn_busy, hb]

theorem step_wrIbuf_beyond (hh : s.host = .wrIbuf i b :: rest) (hi : s.params.ibufCap ≤ i) :
    step s = .refused .offsetBeyondCapacity := by
  rw [step_of_hostMovesNext hm hh]
  simp [hostAccess, hostWriteIbuf, Nat.not_lt.2 hi]

theorem step_rdIbuf_held (hh : s.host = .rdIbuf i :: rest) (hi : i < s.params.ibufCap)
    (hr : s.ibuf.read i = some b) : step s = .next { s.afterHostTurn with rdata := b.setWidth 32 } := by
  rw [step_of_hostMovesNext hm hh]
  simp [hostAccess, hostReadIbuf, hi, hr, State.returnValue]

theorem step_rdIbuf_free (hh : s.host = .rdIbuf i :: rest) (hi : i < s.params.ibufCap)
    (hr : s.ibuf.read i = none) :
    ∃ b : Byte, step s = .next { s.afterHostTurn with rdata := b.setWidth 32, draws := s.draws + 1 } := by
  rw [step_of_hostMovesNext hm hh]
  exact ⟨Config.freeByte s.draws i, by simp [hostAccess, hostReadIbuf, hi, hr, State.returnFreeByte]⟩

theorem step_rdIbuf_beyond (hh : s.host = .rdIbuf i :: rest) (hi : s.params.ibufCap ≤ i) :
    step s = .refused .offsetBeyondCapacity := by
  rw [step_of_hostMovesNext hm hh]
  simp [hostAccess, hostReadIbuf, Nat.not_lt.2 hi]

theorem step_rdObuf_held (hh : s.host = .rdObuf i :: rest) (hi : i < s.params.obufCap)
    (hread : s.obufReadable i = true) (hr : s.obuf.read i = some b) :
    step s = .next { s.afterHostTurn with rdata := b.setWidth 32 } := by
  rw [step_of_hostMovesNext hm hh]
  simp [hostAccess, hostReadObuf, hi, hread, hr, State.returnValue]

/-- Where OBUF is not readable the value is free, whether a byte is held there or not (U5, U7). -/
theorem step_rdObuf_free (hh : s.host = .rdObuf i :: rest) (hi : i < s.params.obufCap)
    (hread : s.obufReadable i = false) :
    ∃ b : Byte, step s = .next { s.afterHostTurn with rdata := b.setWidth 32, draws := s.draws + 1 } := by
  rw [step_of_hostMovesNext hm hh]
  refine ⟨Config.freeByte s.draws i, ?_⟩
  cases hr : s.obuf.read i <;> simp [hostAccess, hostReadObuf, hi, hread, hr, State.returnFreeByte]

theorem step_rdObuf_beyond (hh : s.host = .rdObuf i :: rest) (hi : s.params.obufCap ≤ i) :
    step s = .refused .offsetBeyondCapacity := by
  rw [step_of_hostMovesNext hm hh]
  simp [hostAccess, hostReadObuf, Nat.not_lt.2 hi]

end BufferAccesses

theorem obufReadable_eq_true_iff (s : State) (i : Nat) :
    s.obufReadable i = true ↔ s.busy = false ∧ i < s.obufLen.toNat := by
  simp [State.obufReadable]

theorem obufReadable_eq_false_iff (s : State) (i : Nat) :
    s.obufReadable i = false ↔ s.busy = true ∨ s.obufLen.toNat ≤ i := by
  cases hb : s.busy <;> simp [State.obufReadable, hb]

/-- Settles O9: each clause is one rule of its access; a write is read back by the laws of buffer memories. -/
theorem bufferAccessesReadAndWriteOneByte : Obligations.BufferAccessesReadAndWriteOneByte := by
  refine ⟨fun s i b rest hm hh => ⟨fun hb hi => ?_, step_wrIbuf_busy hm hh, step_wrIbuf_beyond hm hh⟩,
    fun s i rest hm hh => ⟨fun b => step_rdIbuf_held hm hh, step_rdIbuf_free hm hh, step_rdIbuf_beyond hm hh⟩,
    fun s i rest hm hh => ⟨fun b hi hb hlen => ?_, fun hi hun => ?_, step_rdObuf_beyond hm hh⟩,
    fun s i b rest hm hh => step_of_hostMovesNext hm hh⟩
  · exact ⟨s.ibuf.write i b, step_wrIbuf_idle hm hh hb hi, Memory.read_write_same s.ibuf i b,
      fun j hj => Memory.read_write_other s.ibuf b hj⟩
  · exact step_rdObuf_held hm hh hi ((obufReadable_eq_true_iff s i).2 ⟨hb, hlen⟩)
  · exact step_rdObuf_free hm hh hi ((obufReadable_eq_false_iff s i).2 hun)

/-! ### Accesses outside the interface -/

/-- Settles O10: the offset is looked at before BUSY (log 13). -/
theorem accessesOutsideTheInterfaceAreRefused : Obligations.AccessesOutsideTheInterfaceAreRefused := by
  intro s rest hm
  refine ⟨fun off hoff => ?_, fun hh => step_of_hostMovesNext hm hh,
    fun i b hi => ⟨fun hh => step_rdIbuf_beyond hm hh hi, fun hh => step_wrIbuf_beyond hm hh hi⟩,
    fun i hi hh => step_rdObuf_beyond hm hh hi⟩
  have hr : regAt off = none := by simpa using mt (isSome_regAt_iff off).1 hoff
  exact ⟨fun hh => (step_of_hostMovesNext hm hh).trans (hostReadReg_of_none hr _),
    fun v hh => (step_of_hostMovesNext hm hh).trans (hostWriteReg_of_none hr v _)⟩

end Sys2Proof.Machine
end

section
/-! The family of 60_exceptions.md: which error a command reports (R161 to R164), what a failure writes (R165), how long
the record stays (R166), and that no failure depends on a buffer's contents (R167). -/

namespace Sys2Proof.Machine

/-! ### The checks of a command -/

/-- A command is a T operation on a declared tag, or `CHECKSUM`. -/
theorem eq_instr_or_checksum (i : Instr) :
    (∃ (op : TOp) (fmt : PixelFormatTag), i = op.instr fmt) ∨ ∃ b, i = .checksum b := by
  cases i with
  | none fmt => exact .inl ⟨.none, fmt, rfl⟩
  | swapCh0Ch2 fmt => exact .inl ⟨.swapCh0Ch2, fmt, rfl⟩
  | rgb565ToRgb888 fmt => exact .inl ⟨.rgb565ToRgb888, fmt, rfl⟩
  | rgb565ToBgr888 fmt => exact .inl ⟨.rgb565ToBgr888, fmt, rfl⟩
  | checksum b => exact .inr ⟨b, rfl⟩

theorem fmtCode_instr (op : TOp) (fmt : PixelFormatTag) : (op.instr fmt).fmtCode = fmt.code := by
  cases op <;> rfl

/-- The accepted formats are the filled cells of the table of R91. -/
theorem formatAccepted_instr (op : TOp) (fmt : PixelFormatTag) :
    formatAccepted (op.instr fmt) = (outTag op fmt).isSome := by
  cases op <;> cases fmt <;> rfl

/-- The checks of a T command are its geometry check (R93). -/
theorem operandChecks_instr_iff (op : TOp) (fmt : PixelFormatTag) (s : State) :
    s.OperandChecks (op.instr fmt) ↔ geometryOk op fmt s = true := by
  cases op with
  | swapCh0Ch2 => exact (geometryOk_swap_iff fmt s).symm
  | _ => exact (geometryOk_iff_of_ne_swap (by decide) fmt s).symm

/-- The two states agree on everything a check reads: the operand registers, `OBUF_LEN` and the parameters. -/
structure State.SameChecked (s u : State) : Prop where
  width : u.width = s.width
  height : u.height = s.height
  channels : u.channels = s.channels
  ibufLen : u.ibufLen = s.ibufLen
  cklen : u.cklen = s.cklen
  obufLen : u.obufLen = s.obufLen
  params : u.params = s.params

theorem State.SameChecked.operandChecks_iff {s u : State} (h : s.SameChecked u) (i : Instr) :
    u.OperandChecks i ↔ s.OperandChecks i := by
  obtain ⟨hw, hh, hc, hl, hk, ho, hp⟩ := h
  rcases eq_instr_or_checksum i with ⟨op, fmt, rfl⟩ | ⟨b, rfl⟩
  · rw [operandChecks_instr_iff, operandChecks_instr_iff, geometryOk_congr hw hh hc hl hp]
  · cases b <;> simp [State.OperandChecks, State.ChecksumLengths, State.bufLen, State.bufCap, hl, hk, ho, hp]

/-! ### How a command ends -/

/-- A format that is not accepted is reported before any register is read (R162, R164). -/
theorem exec_of_formatRefused {i : Instr} (hf : formatAccepted i = false) (s : State) :
    exec i s = .next (s.fail .unsupportedFormat i.fmtCode) := by
  rcases eq_instr_or_checksum i with ⟨op, fmt, rfl⟩ | ⟨b, rfl⟩
  · have ht : outTag op fmt = none := by simpa [formatAccepted_instr] using hf
    rw [exec_instr, transcode_unsupported ht, fmtCode_instr]
  · cases hf

/-- A failed check of an accepted command is reported as `InvalidGeometry` (R161). -/
theorem exec_of_checksFailed {i : Instr} {s : State} (hf : formatAccepted i = true) (hc : ¬ s.OperandChecks i) :
    exec i s = .next (s.fail .invalidGeometry 0) := by
  rcases eq_instr_or_checksum i with ⟨op, fmt, rfl⟩ | ⟨b, rfl⟩
  · rw [formatAccepted_instr] at hf
    obtain ⟨tag, ht⟩ := Option.isSome_iff_exists.1 hf
    rw [operandChecks_instr_iff, Bool.not_eq_true] at hc
    rw [exec_instr, transcode_badGeometry ht op.body hc]
  · exact execChecksum_badLength (Bool.not_eq_true _ ▸ mt (checksumLengthOk_iff b s).1 hc)

/-- An accepted command whose checks hold succeeds (R164). -/
theorem exec_of_checksPassed {i : Instr} {s : State} (hf : formatAccepted i = true) (hc : s.OperandChecks i) :
    ∃ u : State, exec i s = .next u.complete := by
  rcases eq_instr_or_checksum i with ⟨op, fmt, rfl⟩ | ⟨b, rfl⟩
  · rw [formatAccepted_instr] at hf
    obtain ⟨tag, ht⟩ := Option.isSome_iff_exists.1 hf
    exact ⟨_, exec_of_accepted ht ((operandChecks_instr_iff op fmt s).1 hc)⟩
  · exact ⟨_, execChecksum_success ((checksumLengthOk_iff b s).2 hc)⟩

/-- The three ways a command ends, each with its cause (R164). -/
theorem exec_next_causes {i : Instr} {s t : State} (h : exec i s = .next t) :
    (formatAccepted i = false ∧ t = s.fail .unsupportedFormat i.fmtCode) ∨
    (formatAccepted i = true ∧ ¬ s.OperandChecks i ∧ t = s.fail .invalidGeometry 0) ∨
    (formatAccepted i = true ∧ s.OperandChecks i ∧ ∃ u : State, t = u.complete) := by
  cases hf : formatAccepted i with
  | false =>
    rw [exec_of_formatRefused hf] at h
    cases h
    exact .inl ⟨rfl, rfl⟩
  | true =>
    by_cases hc : s.OperandChecks i
    · obtain ⟨u, hu⟩ := exec_of_checksPassed hf hc
      rw [hu] at h
      cases h
      exact .inr (.inr ⟨rfl, hc, u, rfl⟩)
    · rw [exec_of_checksFailed hf hc] at h
      cases h
      exact .inr (.inl ⟨rfl, hc, rfl⟩)

/-- When the block moves next, the word in flight is illegal and reported as such, or it is a command and ends as that
command does (R144, R163). -/
theorem step_next_of_blockMovesNext {s t : State} (hm : s.blockMovesNext) (h : step s = .next t) :
    (legalWord s.lcmd = false ∧ t = s.afterBlockTurn.fail .illegalCommand 0) ∨
    ∃ i, decode s.lcmd = .command i ∧ exec i s.afterBlockTurn = .next t := by
  cases hl : legalWord s.lcmd with
  | false =>
    rw [step_of_blockMovesNext hm, endOfCommand_of_illegalWord (s := s.afterBlockTurn) hl] at h
    cases h
    exact .inl ⟨rfl, rfl⟩
  | true =>
    obtain ⟨i, hd⟩ := (legalWord_iff_exists_decode _).1 hl
    exact .inr ⟨i, hd, (stepRunsTheDecodedCommand s i hm hd).symm.trans h⟩

/-! ### `IllegalCommand` -/

theorem exec_ecode_ne_illegal {i : Instr} {s t : State} (h : exec i s = .next t) : t.ecode ≠ 3 := by
  rcases exec_next_causes h with ⟨_, rfl⟩ | ⟨_, _, rfl⟩ | ⟨_, _, u, rfl⟩ <;> simp [ErrorKind.code]

theorem code_eq_seven_iff (c : BitVec 3) : c = 7 ↔ ¬ c.toNat ≤ 6 := by
  revert c
  decide

/-- A word is illegal exactly when one of the causes of R163 applies. -/
theorem legalWord_eq_false_iff (w : Word) : legalWord w = false ↔
    (upperField w ≠ 0 ∨ w.getLsbD 3 = true) ∨
    5 ≤ (opcField w).toNat ∨
    ((opcField w).toNat ≤ 3 ∧ fmtField w = 7) ∨
    ((opcField w).toNat ≤ 3 ∧ w.getLsbD 7 = true) ∨
    ((opcField w).toNat = 4 ∧ fmtField w ≠ 0) := by
  have hbit (k : Nat) : w.getLsbD k = true ↔ ¬ w.getLsbD k = false := by simp
  rw [← Bool.not_eq_true, legalWord_iff_legalFields, LegalFields, hbit, hbit, ← bit3Field_eq_zero_iff,
    ← bselField_eq_zero_iff, code_eq_seven_iff]
  simp only [ne_eq, field_eq_zero_iff]
  omega

/-- Settles O34: the error is that of an illegal word, whose causes are R163's. -/
theorem illegalCommandExactlyForIllegalWords : Obligations.IllegalCommandExactlyForIllegalWords := by
  intro s t hm h
  refine Iff.trans ?_ (legalWord_eq_false_iff s.lcmd)
  rcases step_next_of_blockMovesNext hm h with ⟨hl, rfl⟩ | ⟨i, hd, he⟩
  · simp [hl, ErrorKind.code]
  · have hl : legalWord s.lcmd = true := (legalWord_iff_exists_decode _).2 ⟨i, hd⟩
    exact iff_of_false (fun herr => exec_ecode_ne_illegal he herr.2) (by simp [hl])

/-! ### `UnsupportedFormat` -/

theorem exec_unsupported_iff {i : Instr} {s t : State} (h : exec i s = .next t) :
    (t.err = true ∧ t.ecode = 2) ↔ formatAccepted i = false := by
  rcases exec_next_causes h with ⟨hf, rfl⟩ | ⟨hf, _, rfl⟩ | ⟨hf, _, u, rfl⟩ <;> simp [hf, ErrorKind.code]

/-- The commands whose tag the operation does not accept: the empty cells of the table of R91. -/
def refusedCommands : List Instr :=
  [.vuyx, .vyuy422, .rgb888, .bgr888, .rgb565].map .swapCh0Ch2 ++
  [.yuvx, .vuyx, .uyvy422, .vyuy422, .rgb888, .bgr888].map .rgb565ToRgb888 ++
  [.yuvx, .vuyx, .uyvy422, .vyuy422, .rgb888, .bgr888].map .rgb565ToBgr888

theorem formatAccepted_eq_false_iff (i : Instr) : formatAccepted i = false ↔ i ∈ refusedCommands := by
  cases i with
  | checksum b => cases b <;> decide
  | _ fmt => cases fmt <;> decide

/-- The seventeen words of R162. -/
theorem map_encode_refusedCommands : refusedCommands.map encode =
    [0x11, 0x31, 0x41, 0x51, 0x61, 0x02, 0x12, 0x22, 0x32, 0x42, 0x52, 0x03, 0x13, 0x23, 0x33, 0x43, 0x53] := by
  decide

theorem decode_encode (i : Instr) : decode (encode i) = .command i := (decodeAndEncodeAgree _ i).2 rfl

theorem encode_injective : Function.Injective encode := fun i j h =>
  Decoded.command.inj ((decode_encode i).symm.trans (h ▸ decode_encode j))

theorem formatAccepted_eq_false_iff_encode_mem (i : Instr) :
    formatAccepted i = false ↔ encode i ∈ refusedCommands.map encode := by
  rw [formatAccepted_eq_false_iff, List.mem_map_of_injective encode_injective]

/-- The seventeen words are legal. -/
theorem legalWord_of_mem_refused {w : Word} (h : w ∈ refusedCommands.map encode) : legalWord w = true := by
  obtain ⟨i, _, rfl⟩ := List.mem_map.1 h
  exact legalWord_encode i

/-- Settles O35: the words of the empty cells of R91 are the seventeen, and `ETAG` is the `FMT` of the command. -/
theorem unsupportedFormatExactlyForSeventeenWords : Obligations.UnsupportedFormatExactlyForSeventeenWords := by
  intro s t hm h
  rw [← map_encode_refusedCommands]
  rcases step_next_of_blockMovesNext hm h with ⟨hl, rfl⟩ | ⟨i, hd, he⟩
  · have hmem : s.lcmd ∉ refusedCommands.map encode := fun hw => by simp [legalWord_of_mem_refused hw] at hl
    simp [hmem, ErrorKind.code]
  · rw [exec_unsupported_iff he, (decodeAndEncodeAgree _ i).1 hd, ← formatAccepted_eq_false_iff_encode_mem]
    refine ⟨Iff.rfl, fun herr hcode => ?_⟩
    have hf : formatAccepted i = false := (exec_unsupported_iff he).1 ⟨herr, hcode⟩
    rw [exec_of_formatRefused hf] at he
    cases he
    obtain ⟨_, _, hfmt, _⟩ := (decode_eq_command_iff _ i).1 (decode_encode i)
    exact (fail_etag _ _ _).trans hfmt.symm

/-! ### `InvalidGeometry` -/

theorem exec_invalidGeometry_iff {i : Instr} {s t : State} (h : exec i s = .next t) :
    (t.err = true ∧ t.ecode = 1) ↔ formatAccepted i = true ∧ ¬ s.OperandChecks i := by
  rcases exec_next_causes h with ⟨hf, rfl⟩ | ⟨hf, hc, rfl⟩ | ⟨hf, hc, u, rfl⟩ <;> simp [ErrorKind.code, *]

/-- The first four causes of R161 for a T command. -/
theorem not_checksOneToFour_iff (s : State) (fmt : PixelFormatTag) : ¬ s.ChecksOneToFour fmt ↔
    (s.width = 0 ∨ s.height = 0 ∨ s.channels = 0) ∨
    s.channels.toNat ≠ stride s.params fmt ∨
    s.params.ibufCap < s.ibufLen.toNat ∨
    s.ibufLen.toNat ≠ s.height.toNat * s.width.toNat * s.channels.toNat := by
  unfold State.ChecksOneToFour
  rw [field_eq_zero_iff, field_eq_zero_iff, field_eq_zero_iff]
  generalize s.height.toNat * s.width.toNat * s.channels.toNat = product
  omega

/-- Settles O36: the causes are the negations of the command's checks; `OBUF_LEN` is never above its capacity. -/
theorem invalidGeometryExactlyForItsCauses : Obligations.InvalidGeometryExactlyForItsCauses := by
  intro i s t hobuf h
  rw [exec_invalidGeometry_iff h]
  refine and_congr_right fun _ => ?_
  cases i with
  | checksum b =>
    cases b with
    | ibuf => simp [State.OperandChecks, State.ChecksumLengths, State.bufLen, State.bufCap, imp_iff_not_or]
    | obuf => simp [State.OperandChecks, State.ChecksumLengths, State.bufLen, State.bufCap, hobuf]
  | swapCh0Ch2 fmt =>
    rw [State.OperandChecks, not_and_or, not_checksOneToFour_iff]
    simp [State.CheckFive, or_assoc]
  | _ fmt => simp [State.OperandChecks, not_checksOneToFour_iff]

/-! ### The order of the errors -/

/-- Settles O37: the cases of `step_next_of_blockMovesNext` and of `exec_next_causes` exclude each other. -/
theorem firstApplyingErrorIsReported : Obligations.FirstApplyingErrorIsReported := by
  intro s t hm h
  have hchecks (i : Instr) : s.afterBlockTurn.OperandChecks i ↔ s.OperandChecks i :=
    State.SameChecked.operandChecks_iff ⟨rfl, rfl, rfl, rfl, rfl, rfl, rfl⟩ i
  have hrun (i : Instr) (hd : decode s.lcmd = .command i) : exec i s.afterBlockTurn = .next t :=
    (stepRunsTheDecodedCommand s i hm hd).symm.trans h
  refine ⟨fun hno => ?_, fun i hd hf => (exec_unsupported_iff (hrun i hd)).2 hf, fun i hd hf hc => ?_,
    fun i hd hf hc => ?_⟩
  · rcases step_next_of_blockMovesNext hm h with ⟨_, rfl⟩ | ⟨i, hd, _⟩
    · exact statusError_illegal
    · exact absurd hd (hno i)
  · have he := hrun i hd
    rw [exec_of_checksFailed hf (mt (hchecks i).1 hc)] at he
    cases he
    exact statusError_geometry
  · obtain ⟨u, hu⟩ := exec_of_checksPassed hf ((hchecks i).2 hc)
    rw [hrun i hd] at hu
    cases hu
    exact statusDone_eq

/-! ### What a failure writes and what it depends on -/

/-- A command that ends with `ERR` failed on its format or on its checks. -/
theorem exec_err_causes {i : Instr} {s t : State} (h : exec i s = .next t) (herr : t.err = true) :
    (formatAccepted i = false ∧ t = s.fail .unsupportedFormat i.fmtCode) ∨
    (formatAccepted i = true ∧ ¬ s.OperandChecks i ∧ t = s.fail .invalidGeometry 0) := by
  rcases exec_next_causes h with hrefused | hfailed | ⟨_, _, u, rfl⟩
  · exact .inl hrefused
  · exact .inr hfailed
  · simp at herr

/-- A format that is not accepted is a declared tag: `CHECKSUM` has none. -/
theorem exists_fmtCode_eq_of_formatRefused {i : Instr} (hf : formatAccepted i = false) :
    ∃ fmt : PixelFormatTag, i.fmtCode = fmt.code := by
  cases i with
  | checksum b => cases hf
  | _ fmt => exact ⟨fmt, rfl⟩

/-- Settles O38: each of the three errors is a `State.fail`, which writes `STATUS` alone. -/
theorem failureWritesStatusAndNothingElse : Obligations.FailureWritesStatusAndNothingElse := by
  intro s t hm h herr
  rcases step_next_of_blockMovesNext hm h with ⟨_, rfl⟩ | ⟨i, _, he⟩
  · exact ⟨rfl, by simp, by simp, by simp [ErrorKind.code], by simp, .inr (.inl statusError_illegal)⟩
  · rcases exec_err_causes he herr with ⟨hf, rfl⟩ | ⟨_, _, rfl⟩
    · obtain ⟨fmt, hfmt⟩ := exists_fmtCode_eq_of_formatRefused hf
      rw [hfmt]
      exact ⟨rfl, by simp, by simp, by simp [ErrorKind.code], by simp [ErrorKind.code],
        .inr (.inr ⟨fmt, statusError_format fmt⟩)⟩
    · exact ⟨rfl, by simp, by simp, by simp [ErrorKind.code], by simp, .inl statusError_geometry⟩

/-- The outcome of a command is a function of what its checks read (R167). -/
theorem exec_status_congr {i : Instr} {s u t v : State} (hsame : s.SameChecked u) (hs : exec i s = .next t)
    (hu : exec i u = .next v) : v.status = t.status := by
  have hiff := hsame.operandChecks_iff i
  rcases exec_next_causes hs with ⟨hf, rfl⟩ | ⟨hf, hc, rfl⟩ | ⟨hf, hc, _, rfl⟩
  · rw [exec_of_formatRefused hf] at hu
    cases hu
    rfl
  · rw [exec_of_checksFailed hf (mt hiff.1 hc)] at hu
    cases hu
    rfl
  · obtain ⟨_, hu'⟩ := exec_of_checksPassed hf (hiff.2 hc)
    rw [hu] at hu'
    cases hu'
    rfl

/-- Settles O39: an illegal word has one outcome, and a command's outcome is a function of what its checks read. -/
theorem outcomeDoesNotDependOnBufferContents : Obligations.OutcomeDoesNotDependOnBufferContents := by
  intro s u t v hms hmu hlcmd hw hh hc hl hk ho hp hs hu
  rcases step_next_of_blockMovesNext hms hs with ⟨hill, rfl⟩ | ⟨i, hd, he⟩
  · rw [step_of_blockMovesNext hmu, endOfCommand_of_illegalWord (s := u.afterBlockTurn) (hlcmd ▸ hill)] at hu
    cases hu
    rfl
  · have hsame : s.afterBlockTurn.SameChecked u.afterBlockTurn := ⟨hw, hh, hc, hl, hk, ho, hp⟩
    rw [stepRunsTheDecodedCommand u i hmu (hlcmd ▸ hd)] at hu
    exact exec_status_congr hsame he hu

/-! ### How long the record stays -/

/-- No host access but a launch and a reset writes `STATUS` (R166). -/
theorem hostAccess_status_eq {a : HostAccess} {s t : State} (h : hostAccess a s = .next t)
    (hlaunch : ∀ v, a ≠ .wr 0x00 v) (hreset : a ≠ .reset) : t.status = s.status := by
  rcases hostAccess_cases h with
    ⟨_, rfl⟩ | rfl | ⟨_, rfl⟩ | ⟨off, v, r, rfl, hr, _, rfl⟩ | ⟨_, _, _, _, _, rfl⟩ | ⟨_, _, rfl⟩ | ⟨ha, _⟩
  case inr.inr.inr.inl =>
    cases r with
    | cmd =>
      obtain rfl : 0x00 = off := offset_of_regAt hr
      exact absurd rfl (hlaunch v)
    | _ => rfl
  case inr.inr.inr.inr.inr.inr => exact absurd ha hreset
  all_goals rfl

/-- While no command is in flight the record stays, unless the host launches or resets (R166). -/
theorem step_status_of_idle {s t : State} (hb : s.busy = false) (h : step s = .next t)
    (hlaunch : ∀ v rest, s.host ≠ .wr 0x00 v :: rest) (hreset : ∀ rest, s.host ≠ .reset :: rest) :
    t.status = s.status := by
  rcases step_next_cases h with rfl | ⟨a, rest, _, hh, ha⟩ | ⟨⟨hb', _⟩, _⟩
  · rfl
  · rw [hh] at hlaunch hreset
    refine (hostAccess_status_eq ha ?_ ?_).trans (afterHostTurn_status s)
    · rintro v rfl
      exact hlaunch v rest rfl
    · rintro rfl
      exact hreset rest rfl
  · simp [hb] at hb'

@[simp] theorem launch_err (v : Word) (s : State) : (s.launch v).err = false := by
  simp only [State.err, launch_status]; decide
@[simp] theorem launch_ecode (v : Word) (s : State) : (s.launch v).ecode = 0 := by
  simp only [State.ecode, launch_status]; decide
@[simp] theorem launch_etag (v : Word) (s : State) : (s.launch v).etag = 0 := by
  simp only [State.etag, launch_status]; decide

/-- A command that failed fails alike when it is launched again: a failure and a launch write nothing a check reads. -/
theorem exec_launch_of_err {i : Instr} {s t : State} (h : exec i s = .next t) (herr : t.err = true) (w : Word) :
    exec i (t.launch w) = .next { t.launch w with status := t.status } := by
  rcases exec_err_causes h herr with ⟨hf, rfl⟩ | ⟨hf, hc, rfl⟩
  · exact exec_of_formatRefused hf _
  · have hsame : s.SameChecked ((s.fail .invalidGeometry 0).launch w) := ⟨rfl, rfl, rfl, rfl, rfl, rfl, rfl⟩
    exact exec_of_checksFailed hf (mt (hsame.operandChecks_iff i).1 hc)

/-- Settles O40: `STATUS` stays while idle, a launch sets it to `BUSY` alone, and a retry meets the same checks. -/
theorem errorRecordStaysUntilTheNextLaunch : Obligations.ErrorRecordStaysUntilTheNextLaunch := by
  refine ⟨fun s t => step_status_of_idle, fun s v rest hb hh => ?_, fun i s t h herr =>
    exec_launch_of_err h herr (encode i)⟩
  exact ⟨_, step_wr_idle hb hh rfl, launch_err v _, launch_ecode v _, launch_etag v _⟩

end Sys2Proof.Machine
end

section
/-! The family of 70_reset_and_hazards.md: a reset at any time (R180, R181), and what `CHECKSUM OBUF` reads after any
steps that leave the output of the last successful T command (R186). -/

namespace Sys2Proof.Machine

/-! ### The output of the last successful T command -/

/-- Steps that leave the output keep OBUF, `OBUF_LEN` and the parameters, however many they are. -/
theorem OutputKept.obuf_obufLen_params {t v : State} (h : OutputKept t v) :
    v.obuf = t.obuf ∧ v.obufLen = t.obufLen ∧ v.params = t.params := by
  induction h with
  | refl => exact ⟨rfl, rfl, rfl⟩
  | next _ hs hl ih =>
    obtain ⟨ho, hn, hp⟩ := ih
    obtain ⟨ho', hn', hp'⟩ := step_leavesOutput hs hl
    exact ⟨ho'.trans ho, hn'.trans hn, hp'.trans hp⟩

/-- A byte that a buffer holds is read as that byte by the command in flight. -/
theorem read_eq_some_bufByte {s : State} {b : Buffer} {a : Nat} (h : (s.bufMem b).read a ≠ none) :
    (s.bufMem b).read a = some (s.bufByte b a) := by
  obtain ⟨v, hv⟩ := Option.ne_none_iff_exists'.1 h
  rw [bufByte_of_read hv, hv]

/-- When the block moves next with `CHECKSUM` in flight on well-formed lengths, the step ends with `DONE` and the
specification's checksum of the bytes the command reads (R120, R144). -/
theorem step_checksum_eq_spec {b : Buffer} {s : State} (hm : s.blockMovesNext) (hw : s.lcmd = encode (.checksum b))
    (hl : s.ChecksumLengths b) :
    ∃ w, step s = .next w ∧ w.status = 0x00000002 ∧
      w.result.toNat = Spec.checksum s.cklen.toNat fun a => (s.bufByte b a).toNat := by
  have hstep : step s = exec (.checksum b) s.afterBlockTurn :=
    stepRunsTheDecodedCommand s _ hm ((decodeAndEncodeAgree _ _).2 hw)
  obtain ⟨hheld, hle⟩ : s.afterBlockTurn.ChecksumLengths b := by cases b <;> exact hl
  obtain ⟨w, hnext, hstatus, _, _, hresult, _⟩ := (checksumIsTheSpecFold.2.2 b s.afterBlockTurn).1 hheld hle
  have hbytes : s.afterBlockTurn.bufByte b = s.bufByte b := by cases b <;> rfl
  exact ⟨w, hstep.trans hnext, hstatus, hbytes ▸ hresult⟩

/-- Settles O52: the transcoder command left a byte in OBUF at every offset below `OBUF_LEN`, within its capacity, and
the steps between keep them, so `CHECKSUM OBUF` passes its length check and reads these bytes. -/
theorem checksumReadsTheLastTranscoderOutput : Obligations.ChecksumReadsTheLastTranscoderOutput := by
  intro i fmt s t v hi hp hm hd hs hdone hkept
  obtain ⟨ho, hn, hpv⟩ := hkept.obuf_obufLen_params
  refine ⟨hn, fun a => by rw [ho], fun hmv hw hle => ?_⟩
  have hexec : exec i s.afterBlockTurn = .next t := (stepRunsTheDecodedCommand s i hm hd).symm.trans hs
  obtain ⟨_, hfits, _, hheld⟩ := outputFitsTheOutputBuffer i fmt s.afterBlockTurn t hi hp hexec hdone
  have hparams : v.params = s.params := hpv.trans (parametersNeverChange s t hs)
  have hlens : v.ChecksumLengths .obuf := by
    simp only [State.ChecksumLengths, State.bufLen, State.bufCap, hn, hparams]
    exact ⟨hfits, hle⟩
  obtain ⟨w, hstep, hstatus, hresult⟩ := step_checksum_eq_spec hmv hw hlens
  refine ⟨w, v.bufByte .obuf, hstep, hstatus, fun a ha => ?_, hresult⟩
  have hread : v.obuf.read a ≠ none := ho.symm ▸ hheld a ha
  exact ho ▸ read_eq_some_bufByte (b := .obuf) hread

/-! ### Reset -/

theorem assertReset_busy (s : State) : s.assertReset.busy = false :=
  (resetOf_statusFields s.params).1

/-- Settles O42: when the host moves next, idle or with a command in flight, the step is the reset itself, and
`assertReset` keeps of the state the parameters and the MODEL's own fields alone. -/
theorem resetAbandonsTheCommandInFlight : Obligations.ResetAbandonsTheCommandInFlight := by
  intro s rest hm hh
  have hparams : s.afterHostTurn.params = s.params := afterHostTurn_params s
  have hhost : s.afterHostTurn.host = rest := by rw [afterHostTurn_host, hh, List.tail_cons]
  exact ⟨s.afterHostTurn.assertReset, step_of_hostMovesNext hm hh, assertReset_busy _, rfl, rfl, rfl, rfl, rfl, rfl, rfl,
    rfl, rfl, rfl, fun _ => rfl, fun _ => rfl, hparams, hhost⟩

end Sys2Proof.Machine
end
